-- ==== Sys2Proof/Word.lean ====
section
/-! DEFINITION. The bit-vector types of 00_scope.md section 4 and 30_encoding.md R75, R78, and the fixed-length
vectors built from a function. -/

namespace Sys2Proof

/-- A byte, 8 bits (00_scope.md section 4). -/
abbrev Byte := BitVec 8

/-- A word, 16 bits (00_scope.md section 4). -/
abbrev Word := BitVec 16

/-- Format `EV`, the 10-bit input event word (R75, R78). -/
abbrev EvWord := BitVec 10

/-- Format `FR`, the 256-bit wire frame (R75, R76). -/
abbrev FrameWord := BitVec 256

/-- Twelve values, one per channel, in channel order. -/
def vec12 {α : Type} (f : Fin 12 → α) : Vector α 12 :=
  #v[f 0, f 1, f 2, f 3, f 4, f 5, f 6, f 7, f 8, f 9, f 10, f 11]

/-- Thirty values, one per payload byte, in payload order. -/
def vec30 {α : Type} (f : Fin 30 → α) : Vector α 30 :=
  #v[f 0, f 1, f 2, f 3, f 4, f 5, f 6, f 7, f 8, f 9,
     f 10, f 11, f 12, f 13, f 14, f 15, f 16, f 17, f 18, f 19,
     f 20, f 21, f 22, f 23, f 24, f 25, f 26, f 27, f 28, f 29]

end Sys2Proof
end

