-- ==== Sys2Proof/Config.lean ====
section
/-! DEFINITION. The constants of 00_scope.md R5, the widths of R6 at the values the spec takes, and the free value
of the payload buffer's unspecified contents. -/

namespace Sys2Proof.Config

/-- `MARK0`, first byte of the start marker (R5). -/
def mark0 : Byte := 0x42#8

/-- `MARK1`, second byte of the start marker (R5). -/
def mark1 : Byte := 0x4D#8

/-- `LEN_CONST`, the only accepted value of word 0 (R5, R113). -/
def lenConst : Word := 28#16

/-- `CSUM_BYTES`, how many payload bytes enter the checksum (R5, R114). -/
def csumBytes : Nat := 28

/-- `MARK_SUM = 0x42 + 0x4D` (R5). -/
def markSum : Nat := 143

/-- `CNT_W`, width of the frame counter (R6). DESIGN CHOICE (log 6): the spec's default. -/
abbrev cntW : Nat := 32

/-- `SUM_W`, width of a running sum and of an output lane (R6). DESIGN CHOICE (log 6): the spec's default. -/
abbrev sumW : Nat := 48

/-- `CNT_MAX = 2^CNT_W - 1`, the value at which the counter stops (R6). -/
def cntMax : BitVec cntW := BitVec.ofNat cntW (2 ^ cntW - 1)

/-- The `n`-th free byte: the contents of `buf` that a `RESET` leaves unspecified (R38, R150, U5). It has no body, so
nothing can be proved of its value (log 3). -/
opaque freeByte : Nat → Byte

end Sys2Proof.Config

namespace Sys2Proof

/-- The frame counter's type (R29). -/
abbrev CntWord := BitVec Config.cntW

/-- A running sum's and an output lane's type (R28, R41). -/
abbrev SumWord := BitVec Config.sumW

/-- The payload buffer `buf[0..29]` (R25). -/
abbrev Buf := Vector Byte 30

end Sys2Proof
end

