-- ==== Sys2Proof/Machine/Operands.lean ====
section
/-! DEFINITION. Operand assembly: bytes and words (R53, R79), the word and channel views of the payload buffer (R26,
R118), widening (R80), the checksum sum (R81, R114), the scale (R82), and the payload of a frame written from its
fields (R55, R87). -/

namespace Sys2Proof.Machine

/-- Two bytes as one big-endian word, the first byte high: `{hi, lo}` (R53, R79). -/
def be16 (hi lo : Byte) : Word := hi ++ lo

/-- The byte of a word that goes first on the wire (R53). -/
def hiByte (w : Word) : Byte := w.extractLsb' 8 8

/-- The byte of a word that goes second on the wire (R53). -/
def loByte (w : Word) : Byte := w.extractLsb' 0 8

/-- `word(k) = {buf[2k], buf[2k+1]}`, the big-endian word view of the buffer (R26, R79, R112). -/
def wordAt (buf : Buf) (k : Fin 15) : Word :=
  be16 (buf[2 * k.val]'(by omega)) (buf[2 * k.val + 1]'(by omega))

/-- `ch[i] = word(i + 1)` (R118). -/
def channel (buf : Buf) (i : Fin 12) : Word := wordAt buf ⟨i.val + 1, by omega⟩

/-- `zext_SUM_W(v)` (R80). -/
def widen (v : Word) : SumWord := v.setWidth Config.sumW

/-- The twelve channels of the buffer, widened: the value lanes of an accepted frame (R80, R118, R131). -/
def channelLanes (buf : Buf) : Vector SumWord 12 := vec12 fun i => widen (channel buf i)

/-- Lane-wise `sum[i] + zext_SUM_W(word(i + 1))`; lanes do not interact (R132, R141). -/
def addLanes (sum : Vector SumWord 12) (buf : Buf) : Vector SumWord 12 :=
  vec12 fun i => sum[i] + widen (channel buf i)

/-- The unreduced checksum sum: the two marker bytes and payload bytes `0..27`, each an unsigned byte (R81, R114). -/
def csumSum (buf : Buf) : Nat :=
  Config.markSum + ((buf.toList.take Config.csumBytes).map BitVec.toNat).sum

/-- `csum_calc`: the sum modulo 65536 (R114). -/
def csumCalc (buf : Buf) : Word := BitVec.ofNat 16 (csumSum buf)

/-- The scale `sc[i]`: 10 for channels 10 and 11 in temperature/humidity mode, else 1 (R82). -/
def scale (thMode : Bool) (i : Fin 12) : Nat := if thMode && 10 ≤ i.val then 10 else 1

/-- Word `k` of the payload of a frame with these fields and the right length (R55, R76). -/
def payloadWord (ch : Vector Word 12) (rsv csum : Word) (k : Fin 15) : Word :=
  if k.val = 0 then Config.lenConst
  else if h : k.val ≤ 12 then ch[k.val - 1]'(by omega)
  else if k.val = 13 then rsv
  else csum

/-- The 30 payload bytes of a frame with these fields: each word's high byte first (R55, R53, R87). -/
def framePayload (ch : Vector Word 12) (rsv csum : Word) : Buf :=
  vec30 fun j =>
    let w := payloadWord ch rsv csum ⟨j.val / 2, by omega⟩
    if j.val % 2 = 0 then hiByte w else loByte w

/-- The checksum of a frame with these channels and reserved word (R114, R119); the checksum word itself is not in
the sum. -/
def frameChecksum (ch : Vector Word 12) (rsv : Word) : Word := csumCalc (framePayload ch rsv 0#16)

/-- The 32 bytes of a frame in wire order: the marker, then the payload (R55, R87). -/
def frameBytes (ch : Vector Word 12) (rsv csum : Word) : List Byte :=
  Config.mark0 :: Config.mark1 :: (framePayload ch rsv csum).toList

/-- Byte `f` of a 256-bit wire frame: bits `255 - 8f` down to `248 - 8f` (R76). -/
def frameByte (w : FrameWord) (f : Nat) : Byte := w.extractLsb' (248 - 8 * f) 8

/-- The 32 bytes of a 256-bit wire frame in wire order (R76). -/
def bytesOfFrame (w : FrameWord) : List Byte := (List.range 32).map (frameByte w)

/-- The 30 payload bytes of a 256-bit wire frame: payload byte `j` is frame byte `j + 2` (R55, R76). -/
def payloadOfFrame (w : FrameWord) : Buf := vec30 fun j => frameByte w (j.val + 2)

/-- The words as one number, the first word most significant (R76). -/
def packWords (ws : List Word) : FrameWord :=
  ws.foldl (fun acc w => acc <<< 16 ||| w.setWidth 256) 0#256

/-- The 256-bit wire frame with these fields (R76, R77). -/
def frameWord (ch : Vector Word 12) (rsv csum : Word) : FrameWord :=
  packWords [be16 Config.mark0 Config.mark1, Config.lenConst, ch[0], ch[1], ch[2], ch[3], ch[4], ch[5], ch[6], ch[7],
    ch[8], ch[9], ch[10], ch[11], rsv, csum]

end Sys2Proof.Machine
end

