-- ==== Sys2Proof/Syntax.lean ====
section
/-! DEFINITION. The events (R8), what arrives on the input (R78, R76), and one constructor per row of
spec/opcode_table.json. -/

namespace Sys2Proof

/-- An input event of the step function (R8). -/
inductive Event where
  /-- `RESET(avg_en, th_mode)`: start of a run. -/
  | reset (avgEn thMode : Bool)
  /-- `BYTE(b)`: the Byte Source delivers one byte. -/
  | byte (b : Byte)
  /-- `FLUSH`: the averaging deadline. -/
  | flush
  deriving DecidableEq, Repr

/-- What may stand next on the input, encoded: an event word, or the 32 bytes of a wire frame as one value. -/
inductive Input where
  /-- A 10-bit event word (R78). -/
  | ev (w : EvWord)
  /-- A 256-bit wire frame (R76), which stands for its 32 bytes (R87). -/
  | frame (w : FrameWord)
  deriving DecidableEq, Repr

/-- The two events that `IGN.HALT` ignores (R152). -/
inductive HaltedEvent where
  /-- `BYTE(b)` offered in `HALT`. -/
  | byte (b : Byte)
  /-- `FLUSH` in `HALT`. -/
  | flush
  deriving DecidableEq, Repr

/-- The operations of R85 and the data format `FRAME` of R77, one constructor per row of spec/opcode_table.json. -/
inductive Instr where
  /-- Row 1, R150. -/
  | reset (avgEn thMode : Bool)
  /-- Row 2, R152. -/
  | ignHalt (e : HaltedEvent)
  /-- Row 3, R151. -/
  | ignFlush
  /-- Row 4, R135. -/
  | flushEmpty
  /-- Row 5, R134. -/
  | flushOk
  /-- Row 6, R101: the byte is `0x42`. -/
  | seek1Hit
  /-- Row 7, R100. -/
  | seek1Miss (b : Byte)
  /-- Row 8, R102: the byte is `0x4D`. -/
  | seek2Hit
  /-- Row 9, R103. -/
  | seek2Miss (b : Byte)
  /-- Row 10, R110. -/
  | collect (b : Byte)
  /-- Row 11, R121. -/
  | lastRejlen (b : Byte)
  /-- Row 12, R122. -/
  | lastRejcsum (b : Byte)
  /-- Row 13, R131. -/
  | lastForward (b : Byte)
  /-- Row 14, R132. -/
  | lastAccum (b : Byte)
  /-- Row 15, R133. -/
  | lastOvf (b : Byte)
  /-- `FRAME` in format `FR`, R77: the marker and the length are fixed, `ch`, `rsv` and `csum` are its fields. -/
  | frame (ch : Vector Word 12) (rsv csum : Word)
  deriving DecidableEq, Repr

end Sys2Proof
end

