-- ==== Sys2Proof/Machine/State.lean ====
section
/-! DEFINITION. The state: the block's architectural tuple (R20), the input still to come, the outputs, and the
counter of free values; and the state after reset (R38). -/

namespace Sys2Proof.Machine

/-- The sequencing state `st` (R21). -/
inductive SeqState where
  /-- Waiting for a byte equal to `0x42`. -/
  | seekFirst
  /-- The last byte was `0x42`, waiting for `0x4D`. -/
  | seekSecond
  /-- The marker has been matched, `idx` payload bytes are in `buf`. -/
  | collect
  /-- The deadline has been taken. -/
  | halt
  deriving DecidableEq, Repr

/-- The status register (R32); code 3 is never produced. -/
inductive Status where
  /-- No deadline taken yet. -/
  | run
  /-- Deadline taken with at least one frame. -/
  | doneOk
  /-- Deadline taken with no frame. -/
  | failEmpty
  deriving DecidableEq, Repr

/-- The output of a step (R8, R136). -/
inductive Output where
  /-- No output. -/
  | none
  /-- `Emit(n, v[0..11], th)`. -/
  | emit (n : CntWord) (v : Vector SumWord 12) (th : Bool)
  /-- `Empty`. -/
  | empty
  deriving DecidableEq, Repr

/-- The architectural state of the block, exactly the tuple of R20. `idx` holds `0..29` (R22; log 10). -/
structure Block where
  st : SeqState
  idx : Fin 30
  buf : Buf
  sum : Vector SumWord 12
  cnt : CntWord
  ovf : Bool
  status : Status
  avgEn : Bool
  thMode : Bool
  deriving DecidableEq, Repr

/-- The block, the events still to come (oldest first; log 4), the output of the last step, every output so far other
than `None` (oldest first; log 5), and how many free values have been drawn (log 3). -/
structure State where
  block : Block
  inputs : List Input
  out : Output
  outs : List Output
  fresh : Nat
  deriving DecidableEq, Repr

/-- Why a step stops with a fault: never. "no step faults, traps to a handler, or is refused" (R8), so the type has
no constructor. Safe: nothing is cut short. -/
inductive Fault where
  deriving DecidableEq, Repr

/-- Why an instruction is refused. -/
inductive Refusal where
  /-- Raised by an arm of `exec` that has no meaning yet; no arm raises it. Safe: the model stops. -/
  | notModelled (mnemonic : String)
  deriving DecidableEq, Repr

/-- The block right after `RESET(0, 0)` (R38, R191). `avgEn` and `thMode` are the configuration inputs during the
reset, here 0 and 0 (DESIGN CHOICE, log 1); `buf` is unspecified, here zeros (DESIGN CHOICE, log 2). -/
def Block.reset : Block where
  st := .seekFirst
  idx := 0
  buf := vec30 fun _ => 0#8
  sum := vec12 fun _ => 0#48
  cnt := 0#32
  ovf := false
  status := .run
  avgEn := false
  thMode := false

/-- The machine right after reset: no event pending (log 4), nothing output yet. -/
def State.reset : State where
  block := Block.reset
  inputs := []
  out := .none
  outs := []
  fresh := 0

end Sys2Proof.Machine
end

