-- ==== Sys2Proof/Machine/Flags.lean ====
section
/-! DEFINITION. The block's only flag `ovf` (R31) and the tests that choose an operation: equality comparisons
only (R137 (d)). -/

namespace Sys2Proof.Machine

/-- Length check: `word(0) = 28` (R113). -/
def lenOk (buf : Buf) : Bool := wordAt buf 0 == Config.lenConst

/-- Checksum check: `csum_calc = word(14)` (R115). -/
def csumOk (buf : Buf) : Bool := csumCalc buf == wordAt buf 14

/-- Both checks of the Frame Decoder pass (R113, R115). -/
def accepts (buf : Buf) : Bool := lenOk buf && csumOk buf

/-- `cnt = 0` (R134, R135). -/
def cntZero (cnt : CntWord) : Bool := cnt == 0#Config.cntW

/-- `cnt = CNT_MAX` (R132, R133). -/
def cntFull (cnt : CntWord) : Bool := cnt == Config.cntMax

/-- Cause `AccOverflow` is recorded in `ovf` and nowhere else; sticky (R31, R133, R162). -/
def Block.setOvf (r : Block) : Block := { r with ovf := true }

end Sys2Proof.Machine
end

