-- ==== Sys2Proof/WellFormed.lean ====
section
/-! DEFINITION. Which instruction terms stand for an encoding: the data conditions of R85 on the byte itself, and the
checksum of a `FRAME` (R77). The conditions on the state are the decoder's (Decode.lean, `selects`). -/

namespace Sys2Proof

/-- The byte of a miss is not the byte of the hit (R100, R103); a `FRAME` carries its checksum (R77). -/
def Instr.wellFormed : Instr → Bool
  | .seek1Miss b => b != Config.mark0
  | .seek2Miss b => b != Config.mark1
  | .frame ch rsv csum => csum == Machine.frameChecksum ch rsv
  | .reset _ _ | .ignHalt _ | .ignFlush | .flushEmpty | .flushOk | .seek1Hit | .seek2Hit | .collect _
  | .lastRejlen _ | .lastRejcsum _ | .lastForward _ | .lastAccum _ | .lastOvf _ => true

end Sys2Proof
end

