-- ==== Sys2Proof/Decode.lean ====
section
/-! DEFINITION. From an encoded input to an operation: event words (R78), wire frames (R76, R77), the conditions of
R85 on the state, the operation map of R85; then the encoder. -/

namespace Sys2Proof

open Machine (SeqState Block State be16 wordAt payloadOfFrame frameByte csumCalc)

/-- Why the decoder refuses an input, by name. -/
inductive DecodeError where
  /-- `kind = 0` is not an event (R78, U6). -/
  | noEvent
  /-- A 256-bit value whose first 16 bits are not the marker (R77). -/
  | badMarker
  /-- A 256-bit value whose length field is not 28 (R77). -/
  | badLength
  /-- A 256-bit value whose checksum field is not `csum_calc` (R77). -/
  | badChecksum
  deriving DecidableEq, Repr

/-- `ev[9:8]` (R78). -/
def evKind (w : EvWord) : BitVec 2 := w.extractLsb' 8 2

/-- `ev[7:0]` (R78). -/
def evData (w : EvWord) : Byte := w.extractLsb' 0 8

/-- The event an event word stands for (R78): kind 1 `BYTE`, 2 `FLUSH` (data ignored), 3 `RESET` with
`avg_en = ev[0]`, `th_mode = ev[1]` and `ev[7:2]` ignored; kind 0 is no event. -/
def decodeEvent (w : EvWord) : Except DecodeError Event :=
  match evKind w with
  | 0#2 => .error .noEvent
  | 1#2 => .ok (.byte (evData w))
  | 2#2 => .ok .flush
  | _ => .ok (.reset (w.getLsbD 0) (w.getLsbD 1))

/-- The `FRAME` a 256-bit value stands for: marker and length match, and `s = csum_calc` (R77). -/
def decodeFrame (w : FrameWord) : Except DecodeError Instr :=
  let p := payloadOfFrame w
  if be16 (frameByte w 0) (frameByte w 1) != be16 Config.mark0 Config.mark1 then .error .badMarker
  else if wordAt p 0 != Config.lenConst then .error .badLength
  else if csumCalc p != wordAt p 14 then .error .badChecksum
  else .ok (.frame (vec12 (Machine.channel p)) (wordAt p 13) (wordAt p 14))

/-- What the conditions of R85 look at. In the last payload byte's step the two checks are over the buffer with
`buf[29]` already replaced by the byte (R85, R111). -/
structure Context where
  st : SeqState
  /-- `idx = 29`. -/
  last : Bool
  /-- `word(0) = 28`. -/
  lenOk : Bool
  /-- `csum_calc = word(14)`. -/
  csumOk : Bool
  avgEn : Bool
  /-- `cnt = 0`. -/
  cntZero : Bool
  /-- `cnt = CNT_MAX`. -/
  cntFull : Bool
  deriving DecidableEq, Repr

/-- The byte an input offers: `ev[7:0]`. A wire frame is not looked at by any condition of R85. -/
def Input.data : Input → Byte
  | .ev w => evData w
  | .frame _ => 0#8

/-- The conditions of R85 in the state `r` when the byte `b` is offered. -/
def Context.ofByte (r : Block) (b : Byte) : Context where
  st := r.st
  last := r.idx.val == 29
  lenOk := Machine.lenOk (r.buf.set 29 b)
  csumOk := Machine.csumOk (r.buf.set 29 b)
  avgEn := r.avgEn
  cntZero := Machine.cntZero r.cnt
  cntFull := Machine.cntFull r.cnt

/-- The conditions of R85 in the state `r` for the input `x`. -/
def Context.of (r : Block) (x : Input) : Context := Context.ofByte r x.data

/-- Rows 11 to 15 of R85: length first, then checksum (R117), then the hand-over (R120). -/
def selectLast (c : Context) (b : Byte) : Instr :=
  if !c.lenOk then .lastRejlen b
  else if !c.csumOk then .lastRejcsum b
  else if !c.avgEn then .lastForward b
  else if c.cntFull then .lastOvf b
  else .lastAccum b

/-- Rows 6 to 15 of R85, and row 2 for a byte. -/
def selectByte (c : Context) (b : Byte) : Instr :=
  match c.st with
  | .halt => .ignHalt (.byte b)
  | .seekFirst => if b = Config.mark0 then .seek1Hit else .seek1Miss b
  | .seekSecond => if b = Config.mark1 then .seek2Hit else .seek2Miss b
  | .collect => if c.last then selectLast c b else .collect b

/-- Rows 3 to 5 of R85, and row 2 for a deadline. -/
def selectFlush (c : Context) : Instr :=
  if c.st = .halt then .ignHalt .flush
  else if !c.avgEn then .ignFlush
  else if c.cntZero then .flushEmpty
  else .flushOk

/-- The operation map of R85. -/
def select (c : Context) : Event → Instr
  | .reset a t => .reset a t
  | .flush => selectFlush c
  | .byte b => selectByte c b

/-- The decoder: the operation that the input is in the given conditions, or why it is none. -/
def decode (c : Context) : Input → Except DecodeError Instr
  | .ev w =>
    match decodeEvent w with
    | .ok e => .ok (select c e)
    | .error e => .error e
  | .frame w => decodeFrame w

/-- The "condition on state" column of R85 (spec/opcode_table.json, `when`), row by row. -/
def selects (c : Context) : Instr → Bool
  | .reset _ _ => true
  | .ignHalt _ => c.st = .halt
  | .ignFlush => c.st ≠ .halt && !c.avgEn
  | .flushEmpty => c.st ≠ .halt && c.avgEn && c.cntZero
  | .flushOk => c.st ≠ .halt && c.avgEn && !c.cntZero
  | .seek1Hit => c.st = .seekFirst
  | .seek1Miss _ => c.st = .seekFirst
  | .seek2Hit => c.st = .seekSecond
  | .seek2Miss _ => c.st = .seekSecond
  | .collect _ => c.st = .collect && !c.last
  | .lastRejlen _ => c.st = .collect && c.last && !c.lenOk
  | .lastRejcsum _ => c.st = .collect && c.last && c.lenOk && !c.csumOk
  | .lastForward _ => c.st = .collect && c.last && c.lenOk && c.csumOk && !c.avgEn
  | .lastAccum _ => c.st = .collect && c.last && c.lenOk && c.csumOk && c.avgEn && !c.cntFull
  | .lastOvf _ => c.st = .collect && c.last && c.lenOk && c.csumOk && c.avgEn && c.cntFull
  | .frame _ _ _ => true

/-- An input of the table from its number: the 10-bit event word in a container of at most 16 bits, or the 256-bit
frame numbered as R76 numbers it (log 16). -/
def tableInput (nbits w : Nat) : Option Input :=
  if nbits = 256 then
    if w < 2 ^ 256 then some (.frame (BitVec.ofNat 256 w)) else none
  else if nbits ≤ 16 then
    if w < 2 ^ 10 then some (.ev (BitVec.ofNat 10 w)) else none
  else none

/-- The instruction the decoder reads from a word of the table. Event words are shared by several rows and the state
chooses among them (R85), so this is the choice made right after reset (log 7). -/
def decodeTableWord (nbits w : Nat) : Option Instr :=
  match tableInput nbits w with
  | some x =>
    match decode (Context.of State.reset.block x) x with
    | .ok i => some i
    | .error _ => none
  | none => none

/-- `{kind, data}` (R78). -/
def mkEv (kind : BitVec 2) (data : Byte) : EvWord := kind ++ data

/-- The event word of an event, ignored bits zero (R78). -/
def encodeEvent : Event → EvWord
  | .byte b => mkEv 1#2 b
  | .flush => mkEv 2#2 0#8
  | .reset a t => mkEv 3#2 (0#6 ++ BitVec.ofBool t ++ BitVec.ofBool a)

/-- The encoder: the event word of an operation (R78), the 256 bits of a `FRAME` (R76). -/
def encode : Instr → Input
  | .frame ch rsv csum => .frame (Machine.frameWord ch rsv csum)
  | .reset a t => .ev (encodeEvent (.reset a t))
  | .ignHalt (.byte b) => .ev (encodeEvent (.byte b))
  | .ignHalt .flush => .ev (encodeEvent .flush)
  | .ignFlush => .ev (encodeEvent .flush)
  | .flushEmpty => .ev (encodeEvent .flush)
  | .flushOk => .ev (encodeEvent .flush)
  | .seek1Hit => .ev (encodeEvent (.byte Config.mark0))
  | .seek1Miss b => .ev (encodeEvent (.byte b))
  | .seek2Hit => .ev (encodeEvent (.byte Config.mark1))
  | .seek2Miss b => .ev (encodeEvent (.byte b))
  | .collect b => .ev (encodeEvent (.byte b))
  | .lastRejlen b => .ev (encodeEvent (.byte b))
  | .lastRejcsum b => .ev (encodeEvent (.byte b))
  | .lastForward b => .ev (encodeEvent (.byte b))
  | .lastAccum b => .ev (encodeEvent (.byte b))
  | .lastOvf b => .ev (encodeEvent (.byte b))

end Sys2Proof
end

