-- ==== Sys2Proof/Machine/Ops.lean ====
section
/-! DEFINITION. The named operations the meanings are written with: ending a step, the one write into `buf`, the end
of a frame, the causes (R162), taking the deadline, the unspecified contents after a reset, bytes on the stream. -/

namespace Sys2Proof.Machine

/-- The outputs that are not `None`, as a list of at most one (R87). -/
def Output.toList : Output → List Output
  | .none => []
  | o => [o]

/-- The end of a step: the new block, and the step's output as the last output and at the end of the list of
outputs (R8, R87). Input and free values are as they were. -/
def State.commit (s : State) (r : Block) (o : Output) : State :=
  { s with block := r, out := o, outs := s.outs ++ o.toList }

/-- `MemWrite(idx, 1, b)`: the only write into `buf` (R52, R110). -/
def Block.storeByte (r : Block) (b : Byte) : Block := { r with buf := r.buf.set r.idx.val b r.idx.isLt }

/-- `idx <- idx + 1` (R110). From 29 it goes to 0: no operation that is selected does that (R22; log 10). -/
def nextIdx (idx : Fin 30) : Fin 30 := if h : idx.val + 1 < 30 then ⟨idx.val + 1, h⟩ else 0

/-- The buffer with the last payload byte in place: `buf[29] <- b`, what the decode is evaluated over (R111). -/
def Block.lastBuf (r : Block) (b : Byte) : Buf := r.buf.set 29 b

/-- The common part of every `LAST.*`: `buf[29] <- b; st <- SEEK_FIRST; idx <- 0` (R111). -/
def Block.endFrame (r : Block) (b : Byte) : Block :=
  { r with buf := r.lastBuf b, st := .seekFirst, idx := 0 }

/-- The causes raised inside the block (R162). -/
inductive Cause where
  /-- Code 1: a byte that does not continue the marker. -/
  | badMarker
  /-- Code 2: `word(0) != 28` at the 30th payload byte. -/
  | badLength
  /-- Code 3: right length, wrong checksum. -/
  | badChecksum
  /-- Code 4: `FLUSH` with no frame collected. -/
  | emptyWindow
  /-- Code 5: an accepted frame with the counter full. -/
  | accOverflow
  deriving DecidableEq, Repr

/-- `raise <Cause>`: the effect R162 gives the cause ("value recorded"). Causes 1 to 3 are silent (R163 to R165);
`EmptyWindow` writes the status (R171); `AccOverflow` sets `ovf` (R172). -/
def Block.raise (r : Block) : Cause → Block
  | .badMarker | .badLength | .badChecksum => r
  | .emptyWindow => { r with status := .failEmpty }
  | .accOverflow => r.setOvf

/-- Taking the deadline, the block's one interrupt: it saves nothing and transfers control nowhere; `st <- HALT;
idx <- 0` (R170). The status is written by the caller; there is no return from it (R173). -/
def Block.takeDeadline (r : Block) : Block := { r with st := .halt, idx := 0 }

/-- The unspecified contents of `buf` after a reset: thirty free values (R38, R150, U5; log 3). -/
def State.freeBuf (s : State) : Buf := vec30 fun j => Config.freeByte (s.fresh + j.val)

/-- The thirty free values are used up: the next draw gives others (log 3). -/
def State.drawn (s : State) : State := { s with fresh := s.fresh + 30 }

/-- The bytes as `BYTE` events (R51, R78). -/
def byteInputs (bs : List Byte) : List Input := bs.map fun b => .ev (encodeEvent (.byte b))

/-- The Byte Source delivers these bytes next, in this order, before what is already waiting (R50, R87; log 9). -/
def State.offer (s : State) (bs : List Byte) : State := { s with inputs := byteInputs bs ++ s.inputs }

/-- A step in which no event is handled: the block does nothing and there is no output (R78 kind 0, R153). -/
def State.idle (s : State) : State := s.commit s.block .none

end Sys2Proof.Machine
end

