-- ==== Sys2Proof/Machine/Aggregator.lean ====
section
/-! DEFINITION. The Aggregator operations (42_aggregate.md). -/

namespace Sys2Proof.Machine

/-- `LAST.FORWARD` (R131): the accepted frame is output at once, with count 1; the aggregate is not touched. -/
def execLastForward (b : Byte) (s : State) : Host.Outcome State Fault Refusal :=
  .next (s.commit (s.block.endFrame b)
    (.emit 1#32 (channelLanes (s.block.lastBuf b)) s.block.thMode))

/-- `LAST.ACCUM` (R132): twelve sums and the counter in one indivisible update (R62). -/
def execLastAccum (b : Byte) (s : State) : Host.Outcome State Fault Refusal :=
  .next (s.commit
    { s.block.endFrame b with
      sum := addLanes s.block.sum (s.block.lastBuf b)
      cnt := s.block.cnt + 1#32 } .none)

/-- `LAST.OVF` (R133): the frame is left out as a whole and `ovf` is set. -/
def execLastOvf (b : Byte) (s : State) : Host.Outcome State Fault Refusal :=
  .next (s.commit ((s.block.endFrame b).raise .accOverflow) .none)

/-- `FLUSH.OK` (R134): `Emit(cnt, sum, th_mode)`, `status <- DONE_OK`, halt; the aggregate keeps its values. -/
def execFlushOk (s : State) : Host.Outcome State Fault Refusal :=
  .next (s.commit { s.block.takeDeadline with status := .doneOk }
    (.emit s.block.cnt s.block.sum s.block.thMode))

/-- `FLUSH.EMPTY` (R135): `Empty`, `status <- FAIL_EMPTY`, halt; cause `EmptyWindow` (R171). -/
def execFlushEmpty (s : State) : Host.Outcome State Fault Refusal :=
  .next (s.commit (s.block.takeDeadline.raise .emptyWindow) .empty)

end Sys2Proof.Machine
end

