-- ==== Sys2Proof/Machine/FrameDecoder.lean ====
section
/-! DEFINITION. The Frame Decoder operations (41_decode.md). -/

namespace Sys2Proof.Machine

/-- `COLLECT` (R110): `buf[idx] <- b; idx <- idx + 1`. -/
def execCollect (b : Byte) (s : State) : Host.Outcome State Fault Refusal :=
  .next (s.commit { s.block.storeByte b with idx := nextIdx s.block.idx } .none)

/-- `LAST.REJLEN` (R121): `buf[29] <- b; raise BadLength; st <- SEEK_FIRST; idx <- 0`. -/
def execLastRejlen (b : Byte) (s : State) : Host.Outcome State Fault Refusal :=
  .next (s.commit ((s.block.endFrame b).raise .badLength) .none)

/-- `LAST.REJCSUM` (R122): `buf[29] <- b; raise BadChecksum; st <- SEEK_FIRST; idx <- 0`. -/
def execLastRejcsum (b : Byte) (s : State) : Host.Outcome State Fault Refusal :=
  .next (s.commit ((s.block.endFrame b).raise .badChecksum) .none)

end Sys2Proof.Machine
end

