-- ==== Sys2Proof/Machine/Sync.lean ====
section
/-! DEFINITION. The Frame Synchronizer operations (40_sync.md). A meaning is the operation's pseudocode; the condition
under which the operation is performed is the decoder's (R85; log 8). -/

namespace Sys2Proof.Machine

/-- `SEEK1.MISS` (R100): the byte is consumed and lost, nothing changes; cause `BadMarker` is silent (R164). -/
def execSeek1Miss (_b : Byte) (s : State) : Host.Outcome State Fault Refusal :=
  .next (s.commit (s.block.raise .badMarker) .none)

/-- `SEEK1.HIT` (R101): `st <- SEEK_SECOND`. -/
def execSeek1Hit (s : State) : Host.Outcome State Fault Refusal :=
  .next (s.commit { s.block with st := .seekSecond } .none)

/-- `SEEK2.HIT` (R102): `st <- COLLECT; idx <- 0`; `buf` is not cleared. -/
def execSeek2Hit (s : State) : Host.Outcome State Fault Refusal :=
  .next (s.commit { s.block with st := .collect, idx := 0 } .none)

/-- `SEEK2.MISS` (R103): `st <- SEEK_FIRST`; the byte is not examined again, even when it is `0x42`. -/
def execSeek2Miss (_b : Byte) (s : State) : Host.Outcome State Fault Refusal :=
  .next (s.commit ({ s.block with st := .seekFirst }.raise .badMarker) .none)

end Sys2Proof.Machine
end

