-- ==== Sys2Proof/Machine/System.lean ====
section
/-! DEFINITION. The system operations (43_system.md) and the data format `FRAME` as a stimulus token (R77, R87). -/

namespace Sys2Proof.Machine

/-- `RESET` (R150, R38): the block as after reset with the two modes given; `buf` is left with unspecified contents,
thirty free values (log 3). -/
def execReset (avgEn thMode : Bool) (s : State) : Host.Outcome State Fault Refusal :=
  .next (s.drawn.commit
    { Block.reset with buf := s.freeBuf, avgEn := avgEn, thMode := thMode } .none)

/-- `IGN.FLUSH` (R151): nothing changes. -/
def execIgnFlush (s : State) : Host.Outcome State Fault Refusal :=
  .next (s.commit s.block .none)

/-- `IGN.HALT` (R152): nothing changes, whichever of the two events it is. -/
def execIgnHalt (_e : HaltedEvent) (s : State) : Host.Outcome State Fault Refusal :=
  .next (s.commit s.block .none)

/-- `FRAME` (R77), which is a data format and not an operation: as a stimulus token it stands for the 32 bytes of the
frame (R87), so they come next on the stream and the block itself is unchanged (log 9). -/
def execFrame (ch : Vector Word 12) (rsv csum : Word) (s : State) : Host.Outcome State Fault Refusal :=
  .next ((s.offer (frameBytes ch rsv csum)).commit s.block .none)

end Sys2Proof.Machine
end

