-- ==== Sys2Proof/Machine/Dispatch.lean ====
section
/-! DEFINITION. One arm per operation: the operation's own meaning. -/

namespace Sys2Proof.Machine

def exec (i : Instr) (s : State) : Host.Outcome State Fault Refusal :=
  match i with
  | .reset avgEn thMode => Sys2Proof.Machine.execReset avgEn thMode s
  | .ignHalt e => Sys2Proof.Machine.execIgnHalt e s
  | .ignFlush => Sys2Proof.Machine.execIgnFlush s
  | .flushEmpty => Sys2Proof.Machine.execFlushEmpty s
  | .flushOk => Sys2Proof.Machine.execFlushOk s
  | .seek1Hit => Sys2Proof.Machine.execSeek1Hit s
  | .seek1Miss b => Sys2Proof.Machine.execSeek1Miss b s
  | .seek2Hit => Sys2Proof.Machine.execSeek2Hit s
  | .seek2Miss b => Sys2Proof.Machine.execSeek2Miss b s
  | .collect b => Sys2Proof.Machine.execCollect b s
  | .lastRejlen b => Sys2Proof.Machine.execLastRejlen b s
  | .lastRejcsum b => Sys2Proof.Machine.execLastRejcsum b s
  | .lastForward b => Sys2Proof.Machine.execLastForward b s
  | .lastAccum b => Sys2Proof.Machine.execLastAccum b s
  | .lastOvf b => Sys2Proof.Machine.execLastOvf b s
  | .frame ch rsv csum => Sys2Proof.Machine.execFrame ch rsv csum s

end Sys2Proof.Machine
end

