-- ==== Sys2Proof/Machine/Deliver.lean ====
section
/-! DEFINITION. Delivering one input to the block (R8, R85), or several in order (R60); taking the next input from the
queue; the input of a table word. -/

namespace Sys2Proof.Machine

/-- An input the decoder refuses. An event word of kind 0 is no event: nothing changes (R78). A 256-bit value that is
no valid frame is still 32 bytes on the wire: they come next on the stream (R83; log 11). -/
def State.undecoded (s : State) : Input → State
  | .ev _ => s.idle
  | .frame w => (s.offer (bytesOfFrame w)).idle

/-- One step of the block on one input: the operation that R85 selects in the present state is performed. -/
def deliver (x : Input) (s : State) : Host.Outcome State Fault Refusal :=
  match decode (Context.of s.block x) x with
  | .ok i => exec i s
  | .error _ => .next (s.undecoded x)

/-- Inputs handled one at a time in order, each to completion before the next (R9, R60). -/
def deliverAll : List Input → State → Host.Outcome State Fault Refusal
  | [], s => .next s
  | x :: xs, s =>
    match deliver x s with
    | .next t => deliverAll xs t
    | .fault e => .fault e
    | .refused e => .refused e

/-- The next input and the state without it, if one is waiting (R51: it is gone from the stream). -/
def State.takeInput (s : State) : Option (Input × State) :=
  match s.inputs with
  | [] => none
  | x :: xs => some (x, { s with inputs := xs })

/-- The state in which this table word is the next input; an event word of kind 0 where the number is no table word. -/
def State.withInput (s : State) (nbits w : Nat) : State :=
  { s with inputs := (tableInput nbits w).getD (.ev 0#10) :: s.inputs }

end Sys2Proof.Machine
end

