-- ==== Sys2Proof/Machine/Step.lean ====
section
/-! DEFINITION. One step of the machine: the next input is delivered; with none waiting the block does nothing (R153;
log 4). -/

namespace Sys2Proof.Machine

def step (s : State) : Host.Outcome State Fault Refusal :=
  match s.takeInput with
  | some (x, s') => deliver x s'
  | none => .next s.idle

/-- The table word is the next input the step takes. A program of this block is a stimulus sequence delivered from
outside (95_test_vectors.md section 4; log 13), and this stands for that delivery. -/
def State.withFetchWord (s : State) (nbits w : Nat) : State := s.withInput nbits w

end Sys2Proof.Machine
end

