-- ==== Sys2Proof/Machine/Ports.lean ====
section
/-! DEFINITION. The port binding of 10_state.md section 8: the codes of `st` and `status` (R21, R32), CFG and STAT
(R35), the inputs of a clock cycle as events (R39, R40, R78, R169), one clock edge, the output ports (R41). -/

namespace Sys2Proof.Machine

/-- The code of `st` (R21). -/
def SeqState.code : SeqState → BitVec 2
  | .seekFirst => 0#2
  | .seekSecond => 1#2
  | .collect => 2#2
  | .halt => 3#2

/-- The code of `status` (R32). -/
def Status.code : Status → BitVec 2
  | .run => 0#2
  | .doneOk => 1#2
  | .failEmpty => 2#2

/-- `CFG = {th_mode, avg_en}` (R35). -/
def Block.cfg (r : Block) : BitVec 2 := BitVec.ofBool r.thMode ++ BitVec.ofBool r.avgEn

/-- `STAT = {ovf, status[1:0]}` (R35). -/
def Block.stat (r : Block) : BitVec 3 := BitVec.ofBool r.ovf ++ r.status.code

/-- `in_ready`: `st != HALT` (R41). -/
def Block.inReady (r : Block) : Bool := r.st ≠ .halt

/-- The input ports of one clock cycle (R40). -/
structure InPorts where
  rst : Bool
  cfgAvgEn : Bool
  cfgThMode : Bool
  inValid : Bool
  inByte : Byte
  flush : Bool
  deriving DecidableEq, Repr

/-- The event words of one clock cycle: `rst` first and alone, else the byte (if it is taken), then the flush (R39,
R40, R78, R168, R169). -/
def InPorts.words (p : InPorts) (r : Block) : List EvWord :=
  if p.rst then [encodeEvent (.reset p.cfgAvgEn p.cfgThMode)]
  else
    (if p.inValid && r.inReady then [encodeEvent (.byte p.inByte)] else []) ++
    (if p.flush then [encodeEvent .flush] else [])

/-- The output of a cycle with these outputs of its events: the one that is not `None` (R41: at most one is). -/
def Output.merge (a b : Output) : Output :=
  match a with
  | .none => b
  | o => o

/-- The events of a cycle in order, the cycle's output being the one its events give. -/
def cycleSteps : List EvWord → State → Host.Outcome State Fault Refusal
  | [], s => .next s
  | w :: ws, s =>
    match deliver (.ev w) s with
    | .next t => cycleSteps ws { t with out := s.out.merge t.out }
    | .fault e => .fault e
    | .refused e => .refused e

/-- One rising clock edge with these inputs; all its events complete at the edge (R39, R40). -/
def clockEdge (p : InPorts) (s : State) : Host.Outcome State Fault Refusal :=
  cycleSteps (p.words s.block) { s with out := .none }

/-- The count and the lanes that stand on `out_count` and `out_ch`: those of the `Emit` while there is one (R41), and
after the halt the counter and the sums, which stay readable until `RESET` (R152). At any other time neither port is
meaningful, and there is no value (log 14). -/
def State.portData (s : State) : Option (CntWord × Vector SumWord 12) :=
  match s.out with
  | .emit n v _ => some (n, v)
  | _ => if s.block.st = .halt then some (s.block.cnt, s.block.sum) else none

/-- The output ports (R41). -/
structure OutPorts where
  inReady : Bool
  outValid : Bool
  outEmpty : Bool
  outCount : Option CntWord
  outCh : Option (Vector SumWord 12)
  outThMode : Bool
  status : BitVec 2
  halted : Bool
  ovf : Bool
  deriving DecidableEq, Repr

/-- The output ports in the cycle after the clock edge that left this state (R41). -/
def State.ports (s : State) : OutPorts where
  inReady := s.block.inReady
  outValid := match s.out with | .emit _ _ _ => true | _ => false
  outEmpty := match s.out with | .empty => true | _ => false
  outCount := s.portData.map Prod.fst
  outCh := s.portData.map Prod.snd
  outThMode := s.block.thMode
  status := s.block.status.code
  halted := s.block.st = .halt
  ovf := s.block.ovf

end Sys2Proof.Machine
end

