-- ==== Sys2Proof/Machine/Report.lean ====
section
/-! DEFINITION. What the spec says of the block's results without giving the block state for it: the value an output
stands for (R138), the channel names (R27), the trace label (R163), the causes with their codes (R162), the outcome
of the process (R177). Nothing here is read by a step. -/

namespace Sys2Proof.Machine

/-- `val[i] = v[i] / (n * sc[i])`, an exact rational (R138). -/
def emitValue (n : CntWord) (v : Vector SumWord 12) (th : Bool) (i : Fin 12) : Rat :=
  (v[i].toNat : Rat) / ((n.toNat * scale th i : Nat) : Rat)

/-- The name of channel `i`; channels 10 and 11 are named by the sensor mode (R27). -/
def channelName (th : Bool) (i : Fin 12) : String :=
  match i with
  | 0 => "std_pm1"
  | 1 => "std_pm2_5"
  | 2 => "std_pm10"
  | 3 => "atm_pm1"
  | 4 => "atm_pm2_5"
  | 5 => "atm_pm10"
  | 6 => "count_0_3um"
  | 7 => "count_0_5um"
  | 8 => "count_1um"
  | 9 => "count_2_5um"
  | 10 => if th then "temperature" else "count_5um"
  | 11 => if th then "humidity" else "count_10um"

/-- The trace label: the operation's name (R163). -/
def traceLabel : Instr → String
  | .reset _ _ => "RESET"
  | .ignHalt _ => "IGN.HALT"
  | .ignFlush => "IGN.FLUSH"
  | .flushEmpty => "FLUSH.EMPTY"
  | .flushOk => "FLUSH.OK"
  | .seek1Hit => "SEEK1.HIT"
  | .seek1Miss _ => "SEEK1.MISS"
  | .seek2Hit => "SEEK2.HIT"
  | .seek2Miss _ => "SEEK2.MISS"
  | .collect _ => "COLLECT"
  | .lastRejlen _ => "LAST.REJLEN"
  | .lastRejcsum _ => "LAST.REJCSUM"
  | .lastForward _ => "LAST.FORWARD"
  | .lastAccum _ => "LAST.ACCUM"
  | .lastOvf _ => "LAST.OVF"
  | .frame _ _ _ => "FRAME"

/-- The code of a cause, for reference only (R162). -/
def Cause.code : Cause → Nat
  | .badMarker => 1
  | .badLength => 2
  | .badChecksum => 3
  | .emptyWindow => 4
  | .accOverflow => 5

/-- The cause an operation raises (R162). -/
def raisedCause : Instr → Option Cause
  | .seek1Miss _ | .seek2Miss _ => some .badMarker
  | .lastRejlen _ => some .badLength
  | .lastRejcsum _ => some .badChecksum
  | .flushEmpty => some .emptyWindow
  | .lastOvf _ => some .accOverflow
  | .reset _ _ | .ignHalt _ | .ignFlush | .flushOk | .seek1Hit | .seek2Hit | .collect _ | .lastForward _
  | .lastAccum _ | .frame _ _ _ => none

/-- Whether the process has exited with 0 (`some true`), with a non-zero code (`some false`) or not at all (R177). -/
def Status.exitedOk : Status → Option Bool
  | .run => none
  | .doneOk => some true
  | .failEmpty => some false

end Sys2Proof.Machine
end

