-- ==== Sys2Proof/Safety.lean ====
section
/-! DEFINITION. The invariants of the spec (R24, R30), what the output record always carries (R136), and a run whose
counter did not run out (R172, U4). -/

namespace Sys2Proof.Machine

/-- R24 (a), (c), (d); (b) is the type of `idx` (log 10). -/
abbrev Block.SeqInv (r : Block) : Prop :=
  (r.st ≠ .collect → r.idx = 0) ∧
  (r.st = .halt ↔ r.status ≠ .run) ∧
  (r.avgEn = false → r.st ≠ .halt)

/-- R30 (a), (b), (d). -/
abbrev Block.AccInv (r : Block) : Prop :=
  (∀ i : Fin 12, r.sum[i].toNat ≤ 65535 * r.cnt.toNat) ∧
  (r.avgEn = false → r.cnt = 0#32 ∧ (∀ i : Fin 12, r.sum[i] = 0#48) ∧ r.ovf = false) ∧
  (r.ovf = true → r.cnt = Config.cntMax)

/-- The block's invariants together. -/
abbrev Block.Inv (r : Block) : Prop := r.SeqInv ∧ r.AccInv

/-- An output event is an `Empty`, or an `Emit` of at least one frame whose lanes are sums of that many words (R136,
R30 (a)). -/
def Output.WellMade : Output → Prop
  | .none => False
  | .empty => True
  | .emit n v _ => 1 ≤ n.toNat ∧ ∀ i : Fin 12, v[i].toNat ≤ 65535 * n.toNat

/-- The machine's invariant: the block's, and every output so far well made. -/
def State.Inv (s : State) : Prop := s.block.Inv ∧ ∀ o ∈ s.outs, o.WellMade

/-- No accepted frame has been left out of the sums: the premise of a claim about a mean (R172, U4). -/
def State.Sound (s : State) : Prop := s.block.ovf = false

end Sys2Proof.Machine
end

