-- ==== Sys2Proof/Certificates/Slice0/Obligations.lean ====
section
/-! DEFINITION. The statements for the provers, from the numbered rules of spec/. The helpers of `Sys2Proof.Claims`
say the rules' own numbers and byte lists in plain Nat and List terms, apart from the model's functions. -/

namespace Sys2Proof.Claims

open Machine

/-- The step read no input of its own, output nothing and drew no free value. -/
def Silent (s t : State) : Prop :=
  t.inputs = s.inputs ∧ t.out = .none ∧ t.outs = s.outs ∧ t.fresh = s.fresh

/-- The step's one output is `o`; input and free values are as before. -/
def Says (o : Output) (s t : State) : Prop :=
  t.inputs = s.inputs ∧ t.out = o ∧ t.outs = s.outs ++ [o] ∧ t.fresh = s.fresh

/-- The declared length `word(0)` as a number (R53, R113). -/
def lenField (p : Buf) : Nat := p[0].toNat * 256 + p[1].toNat

/-- The stored checksum `word(14)` as a number (R53, R115). -/
def csumField (p : Buf) : Nat := p[28].toNat * 256 + p[29].toNat

/-- `0x42 + 0x4D + buf[0] + ... + buf[27]`, not reduced (R114). -/
def byteSum (p : Buf) : Nat :=
  0x42 + 0x4D +
    p[0].toNat + p[1].toNat + p[2].toNat + p[3].toNat + p[4].toNat + p[5].toNat + p[6].toNat +
    p[7].toNat + p[8].toNat + p[9].toNat + p[10].toNat + p[11].toNat + p[12].toNat + p[13].toNat +
    p[14].toNat + p[15].toNat + p[16].toNat + p[17].toNat + p[18].toNat + p[19].toNat + p[20].toNat +
    p[21].toNat + p[22].toNat + p[23].toNat + p[24].toNat + p[25].toNat + p[26].toNat + p[27].toNat

/-- `ch[i] = buf[2i + 2] * 256 + buf[2i + 3]` as a number (R118, R27). -/
def chField (p : Buf) (i : Fin 12) : Nat := p[2 * i.val + 2].toNat * 256 + p[2 * i.val + 3].toNat

/-- The two bytes of a word, the more significant first (R53). -/
def twoBytes (w : Word) : List Byte := [BitVec.ofNat 8 (w.toNat / 256), BitVec.ofNat 8 (w.toNat % 256)]

/-- The 32 bytes of `FRAME(ch; rsv; csum)` (R87). -/
def wireBytes (ch : Vector Word 12) (rsv csum : Word) : List Byte :=
  [0x42#8, 0x4D#8, 0x00#8, 0x1C#8] ++ ch.toList.flatMap twoBytes ++ twoBytes rsv ++ twoBytes csum

/-- `BYTE(b)` as a waiting event word, `0x100 + b` (R78). -/
def byteWords (bs : List Byte) : List Input := bs.map fun b => .ev (BitVec.ofNat 10 (0x100 + b.toNat))

/-- The input is a `RESET` event word. -/
def isReset (x : Input) : Prop := ∃ w a th, x = .ev w ∧ decodeEvent w = .ok (.reset a th)

/-- The input is a `FLUSH` event word. -/
def isFlush (x : Input) : Prop := ∃ w, x = .ev w ∧ decodeEvent w = .ok .flush

/-- The input is a `BYTE` event word. -/
def isByte (x : Input) : Prop := ∃ w b, x = .ev w ∧ decodeEvent w = .ok (.byte b)

/-- R85's table as one function, in the order of its rows and in the words of the script of 95_test_vectors.md
section 5: the next block and the output. What `RESET` leaves in `buf` is not read from here (R150). -/
def tableStep (r : Block) (e : Event) : Block × Output :=
  match e with
  | .reset a th =>
    ({ r with st := .seekFirst, idx := 0, sum := Vector.replicate 12 0#48, cnt := 0#32, ovf := false, status := .run,
              avgEn := a, thMode := th }, .none)
  | .flush =>
    if r.st = .halt then (r, .none)
    else if r.avgEn = false then (r, .none)
    else if r.cnt.toNat = 0 then ({ r with st := .halt, idx := 0, status := .failEmpty }, .empty)
    else ({ r with st := .halt, idx := 0, status := .doneOk }, .emit r.cnt r.sum r.thMode)
  | .byte b =>
    if r.st = .halt then (r, .none)
    else if r.st = .seekFirst then
      if b.toNat = 0x42 then ({ r with st := .seekSecond }, .none) else (r, .none)
    else if r.st = .seekSecond then
      if b.toNat = 0x4D then ({ r with st := .collect, idx := 0 }, .none) else ({ r with st := .seekFirst }, .none)
    else
      let p := r.buf.set r.idx.val b r.idx.isLt
      if r.idx.val < 29 then ({ r with buf := p, idx := Fin.ofNat 30 (r.idx.val + 1) }, .none)
      else
        let r' : Block := { r with buf := p, st := .seekFirst, idx := 0 }
        if lenField p ≠ 28 then (r', .none)
        else if byteSum p % 65536 ≠ csumField p then (r', .none)
        else if r.avgEn = false then
          (r', .emit 1#32 (Vector.ofFn fun i => BitVec.ofNat 48 (chField p i)) r.thMode)
        else if r.cnt.toNat = 2 ^ 32 - 1 then ({ r' with ovf := true }, .none)
        else
          ({ r' with sum := Vector.ofFn fun i => r.sum[i] + BitVec.ofNat 48 (chField p i), cnt := r.cnt + 1#32 }, .none)

/-- How many bytes the scan of R104 consumes up to and with the marker it matches. -/
def scanLength : List Byte → Option Nat
  | [] => none
  | [_] => none
  | a :: b :: rest =>
    if a = 0x42#8 then
      if b = 0x4D#8 then some 2 else (scanLength rest).map (· + 2)
    else (scanLength (b :: rest)).map (· + 1)

/-- The payloads in a stream read from `SEEK_FIRST`: after each match of the scan the next 30 bytes whole, and on with
the byte after them (R57, R58, R104, R123). `fuel` bounds how many are looked for. -/
def payloads : Nat → List Byte → List Buf
  | 0, _ => []
  | fuel + 1, bs =>
    match scanLength bs with
    | none => []
    | some n =>
      if (bs.drop n).length < 30 then []
      else (Vector.ofFn fun j => (bs.drop n).getD j.val 0#8) :: payloads fuel (bs.drop (n + 30))

/-- The payloads of the stream that pass both checks (R113, R115), in stream order. -/
def acceptedIn (bs : List Byte) : List Buf :=
  (payloads bs.length bs).filter fun p => lenField p = 28 ∧ byteSum p % 65536 = csumField p

/-- Equal but for payload bytes that have not been received: in `COLLECT` those from `idx` on, elsewhere all (R25). -/
def AgreeButDeadBytes (s t : State) : Prop :=
  s.inputs = t.inputs ∧ s.out = t.out ∧ s.outs = t.outs ∧ s.fresh = t.fresh ∧
  s.block = { t.block with buf := s.block.buf } ∧
  (t.block.st = .collect → ∀ j : Fin 30, j.val < t.block.idx.val → s.block.buf[j] = t.block.buf[j])

/-- A well-formed frame's fields: channels, reserved word, checksum. -/
abbrev FrameFields := Vector Word 12 × Word × Word

/-- The sum of channel `i` over some frames. -/
def channelTotal (fs : List FrameFields) (i : Fin 12) : Nat := (fs.map fun f => f.1[i].toNat).sum

/-- The bytes of some frames back to back. -/
def frameBytesOf (fs : List FrameFields) : List Byte := fs.flatMap fun f => wireBytes f.1 f.2.1 f.2.2

/-- Each frame carries its right checksum (R77). -/
def AllValid (fs : List FrameFields) : Prop := ∀ f ∈ fs, (Instr.frame f.1 f.2.1 f.2.2).wellFormed = true

end Sys2Proof.Claims

open Sys2Proof Sys2Proof.Machine Sys2Proof.Claims

/-! ## Encodings -/

/-- R78, the event words: every word's meaning from its number, and which event words a clock cycle gives. That a kind 0
word, which R78 says is never given to the step, changes nothing and outputs nothing when it is delivered all the same
is the model's reading (log 11). -/
def Obligations.EventWordFormat : Prop :=
  (∀ w : EvWord,
    (w.toNat / 256 = 0 → decodeEvent w = .error .noEvent) ∧
    (w.toNat / 256 = 1 → decodeEvent w = .ok (.byte (BitVec.ofNat 8 (w.toNat % 256)))) ∧
    (w.toNat / 256 = 2 → decodeEvent w = .ok .flush) ∧
    (w.toNat / 256 = 3 → decodeEvent w = .ok (.reset (w.toNat % 2 = 1) (w.toNat / 2 % 2 = 1)))) ∧
  (∀ (w : EvWord) (s : State), w.toNat / 256 = 0 → ∃ t, deliver (.ev w) s = .next t ∧ t.block = s.block ∧ Silent s t) ∧
  (∀ (p : InPorts) (r : Block),
    (p.rst = true → p.words r =
      [BitVec.ofNat 10 (0x300 + 2 * p.cfgThMode.toNat + p.cfgAvgEn.toNat)]) ∧
    (p.rst = false → p.words r =
      (if p.inValid = true ∧ r.st ≠ .halt then [BitVec.ofNat 10 (0x100 + p.inByte.toNat)] else []) ++
      (if p.flush = true then [0x200#10] else [])))

/-- R76 and R77 (the latter "derived: from rule R76"): a 256-bit value is a `FRAME` exactly when its first 32 bits are
`0x424D001C` and its low word is the sum of frame bytes 0..29 modulo 65536; the fields are the words at R76's
places. -/
def Obligations.FrameWordIsValidFrame : Prop :=
  ∀ w : FrameWord,
    (w.toNat / 2 ^ 224 = 0x424D001C ∧
      (∑ f : Fin 30, (w.extractLsb' (248 - 8 * f.val) 8).toNat) % 65536 = w.toNat % 65536 →
      decodeFrame w = .ok (.frame (Vector.ofFn fun i => w.extractLsb' (208 - 16 * i.val) 16)
        (w.extractLsb' 16 16) (w.extractLsb' 0 16))) ∧
    (¬ (w.toNat / 2 ^ 224 = 0x424D001C ∧
      (∑ f : Fin 30, (w.extractLsb' (248 - 8 * f.val) 8).toNat) % 65536 = w.toNat % 65536) →
      ∃ e, decodeFrame w = .error e)

/-- Decode and encode agree: a well-formed instruction, in conditions in which R85 selects it, is what the decoder
reads from its own encoding, with every operand at every value. -/
def Obligations.DecodeOfEncode : Prop :=
  ∀ (i : Instr) (c : Context), i.wellFormed = true → selects c i = true → decode c (encode i) = .ok i

/-- What the decoder answers is well formed, is selected by the conditions, and stands for the same input: its
encoding is the same frame, or an event word of the same event. -/
def Obligations.DecodedIsSelectedAndWellFormed : Prop :=
  ∀ (c : Context) (x : Input) (i : Instr), decode c x = .ok i →
    i.wellFormed = true ∧ selects c i = true ∧
    (∀ w, x = .frame w → encode i = .frame w) ∧
    (∀ w, x = .ev w → ∃ v, encode i = .ev v ∧ decodeEvent v = decodeEvent w)

/-- A few event words written out from R78 decode to the operation R85 selects. -/
def Obligations.WrittenWordsDecode : Prop :=
  (∀ c, decode c (.ev 0b11_00000010#10) = .ok (.reset false true)) ∧
  (∀ c, c.st = .seekFirst → decode c (.ev 0b01_01000010#10) = .ok .seek1Hit) ∧
  (∀ c, c.st = .seekSecond → decode c (.ev 0b01_01000010#10) = .ok (.seek2Miss 0x42#8)) ∧
  (∀ c, c.st = .collect → c.last = false → decode c (.ev 0b01_00011100#10) = .ok (.collect 0x1C#8)) ∧
  (∀ c, c.st = .seekFirst → c.avgEn = true → c.cntZero = true → decode c (.ev 0b10_00000000#10) = .ok .flushEmpty)

/-! ## Steps -/

/-- A step runs the decoded instruction: the waiting input is taken off the queue and `exec` of what it decodes to
runs on the state without it. R8's step takes the event as an argument: the queue in the state is the model's choice
(log 4), and that a byte met in `HALT` is taken off it is the model's reading (log 12; R51: none is consumed). -/
def Obligations.StepRunsDecodedInstruction : Prop :=
  ∀ (s : State) (x : Input) (xs : List Input) (i : Instr), s.inputs = x :: xs →
    decode (Context.of s.block x) x = .ok i → step s = exec i { s with inputs := xs }

/-- With nothing waiting, or with a word that is no event, the block does nothing (R153, R78); 256 bits that are no
valid frame are still 32 bytes on the stream (R83; the model's choice, log 11). -/
def Obligations.StepWithoutAnOperation : Prop :=
  (∀ s : State, s.inputs = [] → step s = .next { s with out := .none }) ∧
  (∀ (s : State) (w : EvWord) (xs : List Input) (e : DecodeError), s.inputs = .ev w :: xs →
    decodeEvent w = .error e → step s = .next { s with inputs := xs, out := .none }) ∧
  (∀ (s : State) (w : FrameWord) (xs : List Input) (e : DecodeError), s.inputs = .frame w :: xs →
    decodeFrame w = .error e →
    step s = .next { s with
      inputs := byteWords ((List.range 32).map fun f => w.extractLsb' (248 - 8 * f) 8) ++ xs, out := .none })

/-- No step faults and none is refused, whatever the state. -/
def Obligations.StepAlwaysAnswersNext : Prop := ∀ s : State, ∃ t, step s = .next t

/-- Each step with an event word waiting consumes exactly that one input. This is R51's for a byte that is taken; the
queue is the model's choice (log 4), and so are its two other cases: a byte met in `HALT`, of which R51 says none is
consumed (log 12), and a word of kind 0 (log 11). -/
def Obligations.StepConsumesOneInput : Prop :=
  ∀ (s t : State) (w : EvWord) (xs : List Input), s.inputs = .ev w :: xs → step s = .next t → t.inputs = xs

/-- The step on an event is R85's table (which the spec derives "from the rules named in the last column"): next block
and output, row by row (the contents that `RESET` leaves in `buf` are left open). -/
def Obligations.StepFollowsOperationTable : Prop :=
  ∀ (s : State) (w : EvWord) (e : Event), decodeEvent w = .ok e →
    ∃ t, deliver (.ev w) s = .next t ∧
      (∀ a th, e = .reset a th → t.block = { (tableStep s.block e).1 with buf := t.block.buf }) ∧
      ((∀ a th, e ≠ .reset a th) → t.block = (tableStep s.block e).1 ∧ t.fresh = s.fresh) ∧
      t.out = (tableStep s.block e).2 ∧
      t.outs = s.outs ++ (if t.out = .none then [] else [t.out]) ∧
      t.inputs = s.inputs

/-- Running the machine on a queue of event words (the model's, log 4) is delivering them in order (R60). -/
def Obligations.RunOfQueueIsDeliveryInOrder : Prop :=
  ∀ (ws : List EvWord) (rest : List Input) (s : State),
    Sys2Proof.core.run ws.length { s with inputs := ws.map .ev ++ rest } =
      deliverAll (ws.map .ev) { s with inputs := rest }

/-! ## The Frame Synchronizer operations -/

/-- R100, `SEEK1.MISS`. -/
def Obligations.SeekFirstMissDiscardsByte : Prop :=
  ∀ (s : State) (w : EvWord) (b : Byte), decodeEvent w = .ok (.byte b) → s.block.st = .seekFirst → b ≠ 0x42#8 →
    decode (Context.of s.block (.ev w)) (.ev w) = .ok (.seek1Miss b) ∧
    ∃ t, exec (.seek1Miss b) s = .next t ∧ t.block = s.block ∧ Silent s t

/-- R101, `SEEK1.HIT`; and it is the only operation that enters `SEEK_SECOND`. -/
def Obligations.SeekFirstHitRemembersMarker : Prop :=
  (∀ (s : State) (w : EvWord), decodeEvent w = .ok (.byte 0x42#8) → s.block.st = .seekFirst →
    decode (Context.of s.block (.ev w)) (.ev w) = .ok .seek1Hit ∧
    ∃ t, exec .seek1Hit s = .next t ∧ t.block = { s.block with st := .seekSecond } ∧ Silent s t) ∧
  (∀ (s t : State) (x : Input), deliver x s = .next t → s.block.st ≠ .seekSecond → t.block.st = .seekSecond →
    decode (Context.of s.block x) x = .ok .seek1Hit)

/-- R102, `SEEK2.HIT`; `buf` is not cleared. -/
def Obligations.SeekSecondHitStartsPayload : Prop :=
  ∀ (s : State) (w : EvWord), decodeEvent w = .ok (.byte 0x4D#8) → s.block.st = .seekSecond →
    decode (Context.of s.block (.ev w)) (.ev w) = .ok .seek2Hit ∧
    ∃ t, exec .seek2Hit s = .next t ∧ t.block = { s.block with st := .collect, idx := 0 } ∧ Silent s t

/-- R103, `SEEK2.MISS`: back to `SEEK_FIRST` for every other byte, `0x42` too; `42 42 4D` does not match and
`42 00 42 4D` does. -/
def Obligations.SeekSecondMissDiscardsBoth : Prop :=
  (∀ (s : State) (w : EvWord) (b : Byte), decodeEvent w = .ok (.byte b) → s.block.st = .seekSecond → b ≠ 0x4D#8 →
    decode (Context.of s.block (.ev w)) (.ev w) = .ok (.seek2Miss b) ∧
    ∃ t, exec (.seek2Miss b) s = .next t ∧ t.block = { s.block with st := .seekFirst } ∧ Silent s t) ∧
  (∀ s : State, s.block.st = .seekFirst →
    (∃ t, deliverAll (byteWords [0x42#8, 0x42#8, 0x4D#8]) s = .next t ∧ t.block = s.block) ∧
    (∃ t, deliverAll (byteWords [0x42#8, 0x00#8, 0x42#8, 0x4D#8]) s = .next t ∧
      t.block = { s.block with st := .collect, idx := 0 }))

/-- From `SEEK_FIRST` the block matches exactly where the scan does, and nothing but `st` and `idx` changes. The scan is
R104's, which the spec marks as its own inference ("derived: from rules R100 to R103"). -/
def Obligations.SynchronizerIsTheScan : Prop :=
  ∀ (bs : List Byte) (s : State), s.block.st = .seekFirst →
    (∀ n, scanLength bs = some n →
      (∃ t, deliverAll (byteWords (bs.take n)) s = .next t ∧
        t.block = { s.block with st := .collect, idx := 0 } ∧ t.outs = s.outs) ∧
      (∀ m, m < n → ∃ t, deliverAll (byteWords (bs.take m)) s = .next t ∧
        (t.block = s.block ∨ t.block = { s.block with st := .seekSecond }))) ∧
    (scanLength bs = none →
      ∀ m, m ≤ bs.length → ∃ t, deliverAll (byteWords (bs.take m)) s = .next t ∧
        (t.block = s.block ∨ t.block = { s.block with st := .seekSecond }))

/-! ## The Frame Decoder operations -/

/-- R110, `COLLECT`: stored at `idx`, `idx` one up, whatever the byte and the modes are. -/
def Obligations.CollectStoresByte : Prop :=
  ∀ (s : State) (w : EvWord) (b : Byte), decodeEvent w = .ok (.byte b) → s.block.st = .collect →
    s.block.idx.val < 29 →
    decode (Context.of s.block (.ev w)) (.ev w) = .ok (.collect b) ∧
    ∃ t, exec (.collect b) s = .next t ∧ t.block.idx.val = s.block.idx.val + 1 ∧
      t.block = { s.block with buf := s.block.buf.set s.block.idx.val b s.block.idx.isLt, idx := t.block.idx } ∧
      Silent s t

/-- R121, `LAST.REJLEN`: whatever the checksum, the modes and the byte are. -/
def Obligations.LastByteBadLengthRejects : Prop :=
  ∀ (s : State) (w : EvWord) (b : Byte), decodeEvent w = .ok (.byte b) → s.block.st = .collect →
    s.block.idx.val = 29 → lenField (s.block.buf.set 29 b) ≠ 28 →
    decode (Context.of s.block (.ev w)) (.ev w) = .ok (.lastRejlen b) ∧
    ∃ t, exec (.lastRejlen b) s = .next t ∧
      t.block = { s.block with buf := s.block.buf.set 29 b, st := .seekFirst, idx := 0 } ∧ Silent s t

/-- R122, `LAST.REJCSUM`. -/
def Obligations.LastByteBadChecksumRejects : Prop :=
  ∀ (s : State) (w : EvWord) (b : Byte), decodeEvent w = .ok (.byte b) → s.block.st = .collect →
    s.block.idx.val = 29 → lenField (s.block.buf.set 29 b) = 28 →
    byteSum (s.block.buf.set 29 b) % 65536 ≠ s.block.buf[28].toNat * 256 + b.toNat →
    decode (Context.of s.block (.ev w)) (.ev w) = .ok (.lastRejcsum b) ∧
    ∃ t, exec (.lastRejcsum b) s = .next t ∧
      t.block = { s.block with buf := s.block.buf.set 29 b, st := .seekFirst, idx := 0 } ∧ Silent s t

/-- R113: the length check is `buf[0] = 0x00` and `buf[1] = 0x1C`. -/
def Obligations.LengthCheckOnTwoBytes : Prop :=
  ∀ p : Buf, (lenOk p = true ↔ lenField p = 28) ∧ (lenOk p = true ↔ p[0] = 0x00#8 ∧ p[1] = 0x1C#8)

/-- R114 and R115: the computed checksum, and the check against the stored one. -/
def Obligations.ChecksumIsByteSum : Prop :=
  ∀ p : Buf, (csumCalc p).toNat = byteSum p % 65536 ∧
    (csumOk p = true ↔ byteSum p % 65536 = p[28].toNat * 256 + p[29].toNat)

/-- The sum never reaches 65536; with the length right it is between 171 and 6801 (R116, the spec's own inference:
"derived: from rule R114"). -/
def Obligations.ChecksumNeverWraps : Prop :=
  ∀ p : Buf, byteSum p ≤ 7283 ∧ (csumCalc p).toNat = byteSum p ∧
    (lenOk p = true → 171 ≤ byteSum p ∧ byteSum p ≤ 6801)

/-- R26, R53, R79: every word is its two bytes, the earlier one more significant. -/
def Obligations.WordsAreBigEndian : Prop :=
  ∀ (p : Buf) (k : Fin 15), (wordAt p k).toNat = p[2 * k.val].toNat * 256 + p[2 * k.val + 1].toNat

/-- A 16-bit register started at 143 that adds payload bytes 0..27 holds the computed checksum (R36 (b), the spec's own
inference: "derived: from rules R110, R114, and the invariant R24 (e)"). -/
def Obligations.RunningChecksumAgrees : Prop :=
  ∀ p : Buf, (p.toList.take 28).foldl (fun acc b => acc + b.setWidth 16) 143#16 = csumCalc p

/-- After the marker, up to 29 bytes of any value are stored in order and nothing is tested (R57, R123; the order is
R24 (e), the spec's own inference). -/
def Obligations.PayloadIsStoredInOrder : Prop :=
  ∀ (bs : List Byte) (s : State), s.block.st = .collect → s.block.idx = 0 → bs.length ≤ 29 →
    ∃ t, deliverAll (byteWords bs) s = .next t ∧ t.block.idx.val = bs.length ∧
      (∀ (j : Nat) (hj : j < bs.length) (h30 : j < 30), t.block.buf[j] = bs[j]) ∧
      (∀ j : Fin 30, bs.length ≤ j.val → t.block.buf[j] = s.block.buf[j]) ∧
      t.block = { s.block with buf := t.block.buf, idx := t.block.idx } ∧
      t.outs = s.outs ∧ t.inputs = s.inputs ∧ t.fresh = s.fresh

/-- A payload both checks accept, with any one byte changed, is not accepted: bytes 0 and 1 fail the length check, the
others the checksum (R124, the spec's own inference: "derived: from rules R113 to R116"). -/
def Obligations.SingleByteMutationRejected : Prop :=
  ∀ (p : Buf) (j : Fin 30) (b : Byte), accepts p = true → b ≠ p[j] →
    (j.val < 2 → lenOk (p.set j.val b j.isLt) = false) ∧
    (2 ≤ j.val → lenOk (p.set j.val b j.isLt) = true ∧ csumOk (p.set j.val b j.isLt) = false)

/-! ## The Aggregator operations -/

/-- R131, `LAST.FORWARD`: one `Emit` with count 1 and the twelve channels. -/
def Obligations.AcceptedFrameIsForwarded : Prop :=
  ∀ (s : State) (w : EvWord) (b : Byte), decodeEvent w = .ok (.byte b) → s.block.st = .collect →
    s.block.idx.val = 29 → lenField (s.block.buf.set 29 b) = 28 →
    byteSum (s.block.buf.set 29 b) % 65536 = s.block.buf[28].toNat * 256 + b.toNat → s.block.avgEn = false →
    decode (Context.of s.block (.ev w)) (.ev w) = .ok (.lastForward b) ∧
    ∃ t v, exec (.lastForward b) s = .next t ∧
      (∀ i : Fin 12, v[i].toNat = chField (s.block.buf.set 29 b) i) ∧
      t.block = { s.block with buf := s.block.buf.set 29 b, st := .seekFirst, idx := 0 } ∧
      Says (.emit 1#32 v s.block.thMode) s t

/-- R132, `LAST.ACCUM`: twelve sums and the counter at once, no output; no addition wraps where the invariant R30 (a)
holds. -/
def Obligations.AcceptedFrameIsAccumulated : Prop :=
  ∀ (s : State) (w : EvWord) (b : Byte), decodeEvent w = .ok (.byte b) → s.block.st = .collect →
    s.block.idx.val = 29 → lenField (s.block.buf.set 29 b) = 28 →
    byteSum (s.block.buf.set 29 b) % 65536 = s.block.buf[28].toNat * 256 + b.toNat → s.block.avgEn = true →
    s.block.cnt.toNat < 2 ^ 32 - 1 →
    decode (Context.of s.block (.ev w)) (.ev w) = .ok (.lastAccum b) ∧
    ∃ t, exec (.lastAccum b) s = .next t ∧
      (∀ i : Fin 12, t.block.sum[i] = s.block.sum[i] + BitVec.ofNat 48 (chField (s.block.buf.set 29 b) i)) ∧
      (s.block.Inv → ∀ i : Fin 12,
        t.block.sum[i].toNat = s.block.sum[i].toNat + chField (s.block.buf.set 29 b) i) ∧
      t.block.cnt.toNat = s.block.cnt.toNat + 1 ∧
      t.block = { s.block with buf := s.block.buf.set 29 b, st := .seekFirst, idx := 0, sum := t.block.sum,
                               cnt := t.block.cnt } ∧
      Silent s t

/-- R133, `LAST.OVF`: left out whole, `ovf` set. -/
def Obligations.FullCounterLeavesFrameOut : Prop :=
  ∀ (s : State) (w : EvWord) (b : Byte), decodeEvent w = .ok (.byte b) → s.block.st = .collect →
    s.block.idx.val = 29 → lenField (s.block.buf.set 29 b) = 28 →
    byteSum (s.block.buf.set 29 b) % 65536 = s.block.buf[28].toNat * 256 + b.toNat → s.block.avgEn = true →
    s.block.cnt.toNat = 2 ^ 32 - 1 →
    decode (Context.of s.block (.ev w)) (.ev w) = .ok (.lastOvf b) ∧
    ∃ t, exec (.lastOvf b) s = .next t ∧
      t.block = { s.block with buf := s.block.buf.set 29 b, st := .seekFirst, idx := 0, ovf := true } ∧ Silent s t

/-- R134, `FLUSH.OK`: `sum`, `cnt`, `ovf` and `buf` keep their values. -/
def Obligations.DeadlineEmitsSums : Prop :=
  ∀ (s : State) (w : EvWord), decodeEvent w = .ok .flush → s.block.st ≠ .halt → s.block.avgEn = true →
    0 < s.block.cnt.toNat →
    decode (Context.of s.block (.ev w)) (.ev w) = .ok .flushOk ∧
    ∃ t, exec .flushOk s = .next t ∧ t.block = { s.block with st := .halt, idx := 0, status := .doneOk } ∧
      Says (.emit s.block.cnt s.block.sum s.block.thMode) s t

/-- R135, `FLUSH.EMPTY`. -/
def Obligations.DeadlineWithoutFramesIsEmpty : Prop :=
  ∀ (s : State) (w : EvWord), decodeEvent w = .ok .flush → s.block.st ≠ .halt → s.block.avgEn = true →
    s.block.cnt.toNat = 0 →
    decode (Context.of s.block (.ev w)) (.ev w) = .ok .flushEmpty ∧
    ∃ t, exec .flushEmpty s = .next t ∧ t.block = { s.block with st := .halt, idx := 0, status := .failEmpty } ∧
      Says .empty s t

/-- R143: in pass-through mode nothing but `RESET` writes the aggregate, it stays 0 and `FLUSH` is ignored; in averaging
mode no byte gives an output. -/
def Obligations.ModesShareNoDataPath : Prop :=
  ∀ (s t : State) (x : Input), deliver x s = .next t →
    (s.block.avgEn = false → ¬ isReset x →
      t.block.sum = s.block.sum ∧ t.block.cnt = s.block.cnt ∧ t.block.ovf = s.block.ovf) ∧
    (s.block.Inv → t.block.avgEn = false →
      t.block.cnt = 0#32 ∧ (∀ i : Fin 12, t.block.sum[i] = 0#48) ∧ t.block.ovf = false) ∧
    (s.block.avgEn = false → isFlush x → t.block = s.block ∧ Silent s t) ∧
    (s.block.avgEn = true → isByte x → t.out = .none ∧ t.outs = s.outs)

/-- R138, R139, R142: dividing each frame's channel by the scale and averaging is the value of the `Emit` that carries
the sums and the count. -/
def Obligations.EmitValueIsMeanOfScaledChannels : Prop :=
  ∀ (fs : List FrameFields) (n : CntWord) (v : Vector SumWord 12) (th : Bool) (i : Fin 12), fs ≠ [] →
    n.toNat = fs.length → v[i].toNat = channelTotal fs i →
    emitValue n v th i =
      (fs.map fun f => (f.1[i].toNat : Rat) / (if th = true ∧ 10 ≤ i.val then 10 else 1)).sum / (fs.length : Rat)

/-! ## The system operations and `FRAME` -/

/-- R150, `RESET`, in any state; of `buf` nothing is said (R38: unspecified). In a clock cycle with `rst = 1` it is all
that happens, whatever byte or flush is offered. -/
def Obligations.ResetStartsRun : Prop :=
  (∀ (s : State) (w : EvWord) (a th : Bool), decodeEvent w = .ok (.reset a th) →
    decode (Context.of s.block (.ev w)) (.ev w) = .ok (.reset a th) ∧
    ∃ t, exec (.reset a th) s = .next t ∧
      t.block.st = .seekFirst ∧ t.block.idx = 0 ∧ (∀ i : Fin 12, t.block.sum[i] = 0#48) ∧ t.block.cnt = 0#32 ∧
      t.block.ovf = false ∧ t.block.status = .run ∧ t.block.avgEn = a ∧ t.block.thMode = th ∧
      t.inputs = s.inputs ∧ t.out = .none ∧ t.outs = s.outs) ∧
  (∀ (p : InPorts) (s : State), p.rst = true →
    clockEdge p s = exec (.reset p.cfgAvgEn p.cfgThMode) s)

/-- R151, `IGN.FLUSH`. -/
def Obligations.PassThroughIgnoresDeadline : Prop :=
  ∀ (s : State) (w : EvWord), decodeEvent w = .ok .flush → s.block.st ≠ .halt → s.block.avgEn = false →
    decode (Context.of s.block (.ev w)) (.ev w) = .ok .ignFlush ∧
    ∃ t, exec .ignFlush s = .next t ∧ t.block = s.block ∧ Silent s t

/-- R152, `IGN.HALT`, for a byte and for a deadline; `in_ready` is 0 in `HALT`, and until `RESET` the counter, the
sums, the status and `ovf` stay readable on their ports, from the step that halts on. That the ports of the counter and
the sums are `out_count` and `out_ch` is the model's reading (log 14). -/
def Obligations.HaltIgnoresBytesAndDeadlines : Prop :=
  (∀ (s : State) (w : EvWord) (b : Byte), decodeEvent w = .ok (.byte b) → s.block.st = .halt →
    decode (Context.of s.block (.ev w)) (.ev w) = .ok (.ignHalt (.byte b)) ∧
    ∃ t, exec (.ignHalt (.byte b)) s = .next t ∧ t.block = s.block ∧ Silent s t) ∧
  (∀ (s : State) (w : EvWord), decodeEvent w = .ok .flush → s.block.st = .halt →
    decode (Context.of s.block (.ev w)) (.ev w) = .ok (.ignHalt .flush) ∧
    ∃ t, exec (.ignHalt .flush) s = .next t ∧ t.block = s.block ∧ Silent s t) ∧
  (∀ s : State, s.block.st = .halt → s.ports.inReady = false ∧ s.ports.status = s.block.status.code ∧
    s.ports.ovf = s.block.ovf) ∧
  (∀ (s t : State) (x : Input), deliver x s = .next t → t.block.st = .halt →
    t.ports.outCount = some t.block.cnt ∧ t.ports.outCh = some t.block.sum)

/-- `FRAME` puts its 32 bytes (R87) next on the stream; the block is unchanged (the model's reading, log 9). -/
def Obligations.FrameDeliversItsBytes : Prop :=
  ∀ (s : State) (ch : Vector Word 12) (rsv csum : Word),
    ∃ t, exec (.frame ch rsv csum) s = .next t ∧ t.block = s.block ∧
      t.inputs = byteWords (wireBytes ch rsv csum) ++ s.inputs ∧ t.out = .none ∧ t.outs = s.outs ∧ t.fresh = s.fresh

/-! ## Whole frames and runs -/

/-- A valid frame met in `SEEK_FIRST` in pass-through mode: one step for the token, which is the model's reading of R87
(log 9), and 32 for its bytes, then exactly its channels are output, and the aggregate is untouched (R131, R118). -/
def Obligations.ValidFrameIsForwardedWhole : Prop :=
  ∀ (s : State) (ch : Vector Word 12) (rsv csum : Word) (rest : List Input),
    (Instr.frame ch rsv csum).wellFormed = true → s.block.st = .seekFirst → s.block.avgEn = false →
    s.inputs = encode (.frame ch rsv csum) :: rest →
    ∃ t v, Sys2Proof.core.run 33 s = .next t ∧ (∀ i : Fin 12, v[i].toNat = ch[i].toNat) ∧
      t.block = { s.block with buf := t.block.buf, idx := 0 } ∧ t.inputs = rest ∧
      t.out = .emit 1#32 v s.block.thMode ∧ t.outs = s.outs ++ [.emit 1#32 v s.block.thMode] ∧ t.fresh = s.fresh

/-- A waiting 256-bit value that begins with the marker and fails a check: that one step turns it into its 32 bytes is
the model's choice (log 11); those bytes are consumed whole from `SEEK_FIRST`, no output, nothing but `buf` (and `idx`,
which is 0) different, and the block seeks again (R58, R59, R83, R117, R123). -/
def Obligations.InvalidFrameIsDroppedWhole : Prop :=
  ∀ (s : State) (w : FrameWord) (rest : List Input),
    decodeFrame w = .error .badLength ∨ decodeFrame w = .error .badChecksum → s.block.st = .seekFirst →
    s.inputs = .frame w :: rest →
    ∃ t, Sys2Proof.core.run 33 s = .next t ∧ t.block = { s.block with buf := t.block.buf, idx := 0 } ∧
      t.inputs = rest ∧ t.out = .none ∧ t.outs = s.outs ∧ t.fresh = s.fresh

/-- Valid frames back to back in averaging mode: the counter goes up by their number and each sum by the total of its
channel, exactly, with no output (R28, R62, R132, R137). -/
def Obligations.FramesAccumulateExactly : Prop :=
  ∀ (fs : List FrameFields) (s : State), AllValid fs → s.block.Inv → s.block.st = .seekFirst →
    s.block.avgEn = true → s.block.cnt.toNat + fs.length ≤ 2 ^ 32 - 1 →
    ∃ t, deliverAll (byteWords (frameBytesOf fs)) s = .next t ∧
      t.block.cnt.toNat = s.block.cnt.toNat + fs.length ∧
      (∀ i : Fin 12, t.block.sum[i].toNat = s.block.sum[i].toNat + channelTotal fs i) ∧
      t.block = { s.block with buf := t.block.buf, idx := t.block.idx, sum := t.block.sum, cnt := t.block.cnt } ∧
      t.outs = s.outs ∧ t.inputs = s.inputs

/-- A whole averaging window from any state: `RESET(1, th)`, valid frames, `FLUSH`: one output, whose count is the
number of frames and whose value in every channel is the mean divided by the scale (R138; R142 is the spec's own
inference). -/
def Obligations.WindowOutputsArithmeticMean : Prop :=
  ∀ (fs : List FrameFields) (s : State) (th : Bool), AllValid fs → fs ≠ [] → fs.length ≤ 2 ^ 32 - 1 →
    ∃ t n v, deliverAll (.ev (encodeEvent (.reset true th)) :: byteWords (frameBytesOf fs) ++
        [.ev (encodeEvent .flush)]) s = .next t ∧
      t.outs = s.outs ++ [.emit n v th] ∧ n.toNat = fs.length ∧
      (∀ i : Fin 12, emitValue n v th i =
        (channelTotal fs i : Rat) / ((fs.length : Rat) * (if th = true ∧ 10 ≤ i.val then 10 else 1))) ∧
      t.block.status = .doneOk ∧ t.block.st = .halt ∧ t.block.ovf = false

/-- Averaging mode owes exactly one output, at the first deadline: none before it, one `Emit` or `Empty` at it, none
after it, and `status` is not `RUN` from then on (R136, R199: the spec's own inferences). -/
def Obligations.OneOutputPerAveragingRun : Prop :=
  ∀ (xs ys : List EvWord) (s : State), s.block.avgEn = true → s.block.st ≠ .halt →
    (∀ w ∈ xs, ∃ b, decodeEvent w = .ok (.byte b)) →
    (∀ w ∈ ys, (∃ b, decodeEvent w = .ok (.byte b)) ∨ decodeEvent w = .ok .flush) →
    ∃ t u v o, deliverAll (xs.map .ev) s = .next t ∧ deliver (.ev (encodeEvent .flush)) t = .next u ∧
      deliverAll (ys.map .ev) u = .next v ∧
      t.outs = s.outs ∧ u.outs = s.outs ++ [o] ∧ (o = .empty ∨ ∃ n l th, o = .emit n l th ∧ 1 ≤ n.toNat) ∧
      u.block.st = .halt ∧ u.block.status ≠ .run ∧ v.outs = u.outs ∧ v.block = u.block

/-- Pass-through mode on any bytes at all: one `Emit` of count 1 for each accepted frame of the stream, in stream
order, and nothing else (R58, R131; R104 and R199 are the spec's own inferences: "derived: from rules R100 to R103",
"derived: from `42_aggregate.md` rule R136"). -/
def Obligations.PassThroughForwardsAcceptedFrames : Prop :=
  ∀ (bs : List Byte) (s : State), s.block.st = .seekFirst → s.block.avgEn = false →
    ∃ t, deliverAll (byteWords bs) s = .next t ∧
      t.outs = s.outs ++ (acceptedIn bs).map fun p =>
        Output.emit 1#32 (Vector.ofFn fun i => BitVec.ofNat 48 (chField p i)) s.block.thMode

/-- An averaging window on any bytes at all: the output at the deadline is over exactly the accepted frames of the
stream, the same frames for every channel; rejected frames and stray bytes change nothing (R62, R206; R104 and R142 are
the spec's own inferences: "derived: from rules R100 to R103", "derived: from rules R132, R134, R138"). -/
def Obligations.WindowCoversAcceptedFrames : Prop :=
  ∀ (bs : List Byte) (s : State) (th : Bool), (acceptedIn bs).length ≤ 2 ^ 32 - 1 →
    ∃ t, deliverAll (.ev (encodeEvent (.reset true th)) :: byteWords bs ++ [.ev (encodeEvent .flush)]) s = .next t ∧
      (acceptedIn bs = [] → t.outs = s.outs ++ [.empty] ∧ t.block.status = .failEmpty) ∧
      (acceptedIn bs ≠ [] → ∃ n v, t.outs = s.outs ++ [.emit n v th] ∧ t.block.status = .doneOk ∧
        n.toNat = (acceptedIn bs).length ∧
        ∀ i : Fin 12, v[i].toNat = ((acceptedIn bs).map fun p => chField p i).sum)

/-! ## Invariants and rules of the whole machine -/

/-- Every step keeps the invariants of R24 and R30, and every output so far is well made (R136): the spec marks all
three as its own inferences ("derived: from rules ..."). -/
def Obligations.StepKeepsMachineInvariants : Prop := ∀ s t : State, s.Inv → step s = .next t → t.Inv

/-- They hold right after reset. -/
def Obligations.ResetSatisfiesInvariants : Prop := State.reset.Inv

/-- Without a reset no sum and no count goes down (R30 (c), the spec's own inference), and `ovf` is not cleared
(R31). -/
def Obligations.AggregateNeverDecreases : Prop :=
  ∀ (s t : State) (x : Input), s.block.Inv → ¬ isReset x → deliver x s = .next t →
    s.block.cnt.toNat ≤ t.block.cnt.toNat ∧ (∀ i : Fin 12, s.block.sum[i].toNat ≤ t.block.sum[i].toNat) ∧
    (s.block.ovf = true → t.block.ovf = true)

/-- R33: the two modes are loaded by `RESET` from the event and by nothing else (R34, R130). -/
def Obligations.OnlyResetLoadsModes : Prop :=
  ∀ (s t : State) (x : Input), deliver x s = .next t →
    (¬ isReset x → t.block.avgEn = s.block.avgEn ∧ t.block.thMode = s.block.thMode) ∧
    (∀ w a th, x = .ev w → decodeEvent w = .ok (.reset a th) → t.block.avgEn = a ∧ t.block.thMode = th)

/-- R183: a halted block takes nothing, outputs nothing and keeps its state, and only `RESET` leaves the halt. -/
def Obligations.OnlyResetLeavesHalt : Prop :=
  ∀ (s t : State) (x : Input), s.block.st = .halt → deliver x s = .next t →
    (¬ isReset x → t.block = s.block ∧ t.out = .none ∧ t.outs = s.outs) ∧ (isReset x → t.block.st ≠ .halt)

/-- What a taken deadline outputs depends on the aggregate and the sensor mode only, not on the sequencing state or the
payload buffer (R170's last sentence, the spec's own inference: "derived: from rules R134, R135"). -/
def Obligations.DeadlineOutputIgnoresFrameInProgress : Prop :=
  ∀ (s s' t t' : State) (w : EvWord), decodeEvent w = .ok .flush → s.block.st ≠ .halt → s'.block.st ≠ .halt →
    s.block.avgEn = s'.block.avgEn → s.block.cnt = s'.block.cnt → s.block.sum = s'.block.sum →
    s.block.thMode = s'.block.thMode → deliver (.ev w) s = .next t → deliver (.ev w) s' = .next t' →
    t.out = t'.out ∧ (s.block.avgEn = true → t.block.status = t'.block.status)

/-- R25, R38: payload bytes not yet received are dead: two states that differ in them only give, on every sequence of
inputs, the same outputs and states that again differ in such bytes only. -/
def Obligations.DeadPayloadBytesAreNeverRead : Prop :=
  ∀ (xs : List Input) (s s' t : State), AgreeButDeadBytes s s' → deliverAll xs s = .next t →
    ∃ t', deliverAll xs s' = .next t' ∧ AgreeButDeadBytes t t'

/-! ## The port binding -/

/-- R39, R40, R169: at one clock edge, `rst` alone if it is 1; else the byte (if the block is ready) and then the
flush; with none of them nothing but the output ports changes. That the output of a cycle with both is the first that
is not `None` is the model's reading of R41 (log 17). -/
def Obligations.ClockEdgeOrdersEvents : Prop :=
  ∀ (p : InPorts) (s : State),
    (p.rst = true → ∃ t, deliver (.ev (encodeEvent (.reset p.cfgAvgEn p.cfgThMode))) s = .next t ∧
      clockEdge p s = .next t) ∧
    (p.rst = false → p.inValid = true → p.flush = false → s.block.st ≠ .halt →
      ∃ t, deliver (.ev (encodeEvent (.byte p.inByte))) s = .next t ∧ clockEdge p s = .next t) ∧
    (p.rst = false → (p.inValid = false ∨ s.block.st = .halt) → p.flush = true →
      ∃ t, deliver (.ev (encodeEvent .flush)) s = .next t ∧ clockEdge p s = .next t) ∧
    (p.rst = false → p.inValid = true → p.flush = true → s.block.st ≠ .halt →
      ∃ t u, deliver (.ev (encodeEvent (.byte p.inByte))) s = .next t ∧
        deliver (.ev (encodeEvent .flush)) t = .next u ∧
        clockEdge p s = .next { u with out := if t.out = .none then u.out else t.out }) ∧
    (p.rst = false → (p.inValid = false ∨ s.block.st = .halt) → p.flush = false →
      clockEdge p s = .next { s with out := .none })

/-- At most one output event a cycle (R41, the spec's own inference), and the output ports in the next cycle show
exactly it; after the halt the counter and the sums stay on theirs (R152; which ports these are is the model's reading,
log 14); `in_ready` and `halted` follow `st`. -/
def Obligations.CycleHasAtMostOneOutput : Prop :=
  ∀ (p : InPorts) (s : State), ∃ t, clockEdge p s = .next t ∧
    (t.out = .none ∧ t.outs = s.outs ∨ t.out ≠ .none ∧ t.outs = s.outs ++ [t.out]) ∧
    (t.ports.outValid = true ↔ ∃ n v th, t.out = .emit n v th ∧ t.ports.outCount = some n ∧ t.ports.outCh = some v) ∧
    (t.ports.outEmpty = true ↔ t.out = .empty) ∧ (t.ports.outValid && t.ports.outEmpty) = false ∧
    (t.block.st = .halt → t.ports.outCount = some t.block.cnt ∧ t.ports.outCh = some t.block.sum) ∧
    (t.ports.inReady = true ↔ t.block.st ≠ .halt) ∧ (t.ports.halted = true ↔ t.block.st = .halt) ∧
    t.ports.outThMode = t.block.thMode ∧ t.ports.ovf = t.block.ovf
end

