-- ==== Sys2Proof/Laws/Operands.lean ====
section
/-! SUPPORT. One lemma for each operand function: what the vectors built from functions hold, big-endian words as
numbers, the lanes, and the bytes of a packed frame. -/

namespace Sys2Proof

@[simp] theorem vec12_getElem {α : Type} (f : Fin 12 → α) (i : Nat) (h : i < 12) : (vec12 f)[i] = f ⟨i, h⟩ := by
  obtain ⟨lane, rfl⟩ : ∃ lane : Fin 12, lane.val = i := ⟨⟨i, h⟩, rfl⟩
  fin_cases lane <;> rfl

@[simp] theorem vec30_getElem {α : Type} (f : Fin 30 → α) (i : Nat) (h : i < 30) : (vec30 f)[i] = f ⟨i, h⟩ := by
  obtain ⟨byte, rfl⟩ : ∃ byte : Fin 30, byte.val = i := ⟨⟨i, h⟩, rfl⟩
  fin_cases byte <;> rfl

namespace Machine

theorem be16_toNat (hi lo : Byte) : (be16 hi lo).toNat = hi.toNat * 256 + lo.toNat := by
  have h := lo.isLt
  simp only [be16, BitVec.toNat_append, Nat.shiftLeft_eq]
  rw [Nat.mul_comm, ← Nat.two_pow_add_eq_or_of_lt h, Nat.mul_comm]

/-- Bit `i` of a word made of two bytes. -/
theorem be16_getLsbD (hi lo : Byte) (i : Nat) :
    (be16 hi lo).getLsbD i = if i < 8 then lo.getLsbD i else hi.getLsbD (i - 8) := BitVec.getLsbD_append

@[simp] theorem hiByte_be16 (hi lo : Byte) : hiByte (be16 hi lo) = hi := by
  apply BitVec.eq_of_getLsbD_eq
  intro i h
  simp [hiByte, be16_getLsbD, h]

@[simp] theorem loByte_be16 (hi lo : Byte) : loByte (be16 hi lo) = lo := by
  apply BitVec.eq_of_getLsbD_eq
  intro i h
  simp [loByte, be16_getLsbD, h]

@[simp] theorem be16_hiByte_loByte (w : Word) : be16 (hiByte w) (loByte w) = w := by
  apply BitVec.eq_of_getLsbD_eq
  intro i h
  rw [be16_getLsbD]
  by_cases h8 : i < 8
  · simp [loByte, h8]
  · have h1 : i - 8 < 8 := by omega
    have h2 : 8 + (i - 8) = i := by omega
    simp [hiByte, h8, h1, h2]

/-- Reading a word as two bytes read big-endian. -/
theorem wordAt_toNat (buf : Buf) (k : Fin 15) :
    (wordAt buf k).toNat = buf[2 * k.val].toNat * 256 + buf[2 * k.val + 1].toNat := be16_toNat _ _

@[simp] theorem channelLanes_getElem (buf : Buf) (i : Nat) (h : i < 12) :
    (channelLanes buf)[i] = widen (channel buf ⟨i, h⟩) := by
  simp [channelLanes]

@[simp] theorem addLanes_getElem (sum : Vector SumWord 12) (buf : Buf) (i : Nat) (h : i < 12) :
    (addLanes sum buf)[i] = sum[i] + widen (channel buf ⟨i, h⟩) := by
  simp [addLanes]

theorem widen_toNat (v : Word) : (widen v).toNat = v.toNat := by
  simp only [widen, BitVec.toNat_setWidth]
  exact Nat.mod_eq_of_lt (Nat.lt_of_lt_of_le v.isLt (by decide))

/-- The word view of a payload written from its fields gives the fields back. -/
theorem wordAt_framePayload (ch : Vector Word 12) (rsv csum : Word) (k : Fin 15) :
    wordAt (framePayload ch rsv csum) k = payloadWord ch rsv csum k := by
  have h0 : (2 * k.val) % 2 = 0 := by omega
  have h1 : ¬ (2 * k.val + 1) % 2 = 0 := by omega
  have e0 : 2 * k.val / 2 = k.val := by omega
  have e1 : (2 * k.val + 1) / 2 = k.val := by omega
  simp only [wordAt, framePayload, vec30_getElem, h0, h1, e0, e1, if_true, if_false, be16_hiByte_loByte, Fin.eta]

theorem channel_framePayload (ch : Vector Word 12) (rsv csum : Word) (i : Fin 12) :
    channel (framePayload ch rsv csum) i = ch[i] := by
  have h : i.val + 1 ≤ 12 := by omega
  simp [channel, wordAt_framePayload, payloadWord, h]

/-- The bytes of a frame, written out (R55). -/
theorem frameBytes_eq (ch : Vector Word 12) (rsv csum : Word) : frameBytes ch rsv csum =
    [0x42#8, 0x4D#8, 0x00#8, 0x1C#8, hiByte ch[0], loByte ch[0], hiByte ch[1], loByte ch[1], hiByte ch[2], loByte ch[2],
     hiByte ch[3], loByte ch[3], hiByte ch[4], loByte ch[4], hiByte ch[5], loByte ch[5], hiByte ch[6], loByte ch[6],
     hiByte ch[7], loByte ch[7], hiByte ch[8], loByte ch[8], hiByte ch[9], loByte ch[9], hiByte ch[10], loByte ch[10],
     hiByte ch[11], loByte ch[11], hiByte rsv, loByte rsv, hiByte csum, loByte csum] := by
  have h0 : (0x00#8 : Byte) = hiByte Config.lenConst := by decide
  have h1 : (0x1C#8 : Byte) = loByte Config.lenConst := by decide
  rw [h0, h1]
  rfl

/-- Payload byte `j` of a 256-bit frame is frame byte `j + 2` (R55). -/
theorem payloadOfFrame_get (w : FrameWord) (j : Nat) (h : j < 30) : (payloadOfFrame w)[j] = frameByte w (j + 2) := by
  simp [payloadOfFrame]

/-- Bytes below the newest word of a packing come from it, the others from the words before. -/
theorem pack_byte_lo (a : FrameWord) (w : Word) : (a <<< 16 ||| w.setWidth 256).extractLsb' 0 8 = loByte w := by
  apply BitVec.eq_of_getLsbD_eq
  intro i hi
  have h : i < 16 := by omega
  have h2 : i < 256 := by omega
  simp [loByte, hi, h, h2]

theorem pack_byte_hi (a : FrameWord) (w : Word) : (a <<< 16 ||| w.setWidth 256).extractLsb' 8 8 = hiByte w := by
  apply BitVec.eq_of_getLsbD_eq
  intro i hi
  have h : 8 + i < 16 := by omega
  have h2 : 8 + i < 256 := by omega
  simp [hiByte, hi, h, h2]

theorem pack_byte_above (a : FrameWord) (w : Word) (m : Nat) (h : m + 24 ≤ 256) :
    (a <<< 16 ||| w.setWidth 256).extractLsb' (m + 16) 8 = a.extractLsb' m 8 := by
  apply BitVec.eq_of_getLsbD_eq
  intro i hi
  have h1 : ¬ m + 16 + i < 16 := by omega
  have h2 : m + 16 + i < 256 := by omega
  have h3 : m + 16 + i - 16 = m + i := by omega
  have h4 : w.getLsbD (m + 16 + i) = false := BitVec.getLsbD_of_ge _ _ (by omega)
  have h5 : m + i < 256 := by omega
  simp [hi, h1, h2, h3, h4, BitVec.getLsbD_eq_getElem h5]

/-- The bytes of the 256-bit frame are the frame's bytes in wire order (R76 against R55). -/
theorem bytesOfFrame_frameWord (ch : Vector Word 12) (rsv csum : Word) :
    bytesOfFrame (frameWord ch rsv csum) = frameBytes ch rsv csum := by
  have up : ∀ (a : FrameWord) (w : Word) (m : Nat), 16 ≤ m → m + 8 ≤ 256 →
      (a <<< 16 ||| w.setWidth 256).extractLsb' m 8 = a.extractLsb' (m - 16) 8 := by
    intro a w m h1 h2
    obtain ⟨k, rfl⟩ : ∃ k, m = k + 16 := ⟨m - 16, by omega⟩
    rw [pack_byte_above a w k (by omega)]
    rfl
  have range : List.range 32 = [0, 1, 2, 3, 4, 5, 6, 7, 8, 9, 10, 11, 12, 13, 14, 15, 16, 17, 18, 19, 20, 21, 22, 23,
      24, 25, 26, 27, 28, 29, 30, 31] := by decide
  simp only [bytesOfFrame, range, List.map_cons, List.map_nil, frameByte, frameWord, packWords, List.foldl_cons,
    List.foldl_nil]
  simp only [Nat.reduceMul, Nat.reduceSub, up, Nat.reduceLeDiff, Nat.reduceAdd, pack_byte_lo, pack_byte_hi]
  rfl

end Machine

end Sys2Proof
end

