-- ==== Sys2Proof/Laws/Decode.lean ====
section
/-! SUPPORT. One lemma for each decoding function on what it is given by the encoder: the fields of an event word, the
event of an encoded event. -/

namespace Sys2Proof

@[simp] theorem evKind_mkEv (k : BitVec 2) (d : Byte) : evKind (mkEv k d) = k := by
  apply BitVec.eq_of_getLsbD_eq
  intro i h
  have hb : (mkEv k d).getLsbD (8 + i) = if 8 + i < 8 then d.getLsbD (8 + i) else k.getLsbD (8 + i - 8) :=
    BitVec.getLsbD_append
  simp [evKind, h, hb]

@[simp] theorem evData_mkEv (k : BitVec 2) (d : Byte) : evData (mkEv k d) = d := by
  apply BitVec.eq_of_getLsbD_eq
  intro i h
  have hb : (mkEv k d).getLsbD i = if i < 8 then d.getLsbD i else k.getLsbD (i - 8) := BitVec.getLsbD_append
  simp [evData, h, hb]

@[simp] theorem decodeEvent_byte (b : Byte) : decodeEvent (encodeEvent (.byte b)) = .ok (.byte b) := by
  simp [decodeEvent, encodeEvent]

@[simp] theorem decodeEvent_flush : decodeEvent (encodeEvent .flush) = .ok .flush := by
  simp [decodeEvent, encodeEvent]

@[simp] theorem decodeEvent_reset (a t : Bool) : decodeEvent (encodeEvent (.reset a t)) = .ok (.reset a t) := by
  cases a <;> cases t <;> decide

@[simp] theorem decode_event (c : Context) (e : Event) : decode c (.ev (encodeEvent e)) = .ok (select c e) := by
  cases e <;> simp [decode]

@[simp] theorem data_byte (b : Byte) : Input.data (.ev (encodeEvent (.byte b))) = b := by
  simp [Input.data, encodeEvent]

end Sys2Proof
end

