-- ==== Sys2Proof/Laws/State.lean ====
section
/-! SUPPORT. One lemma per field for every update of the state and of the block, true by unfolding, so that no later
proof unfolds a record update. -/

namespace Sys2Proof.Machine


@[simp] theorem State.commit_block (s : State) (r : Block) (o : Output) : (s.commit r o).block = r := rfl
@[simp] theorem State.commit_inputs (s : State) (r : Block) (o : Output) : (s.commit r o).inputs = s.inputs := rfl
@[simp] theorem State.commit_out (s : State) (r : Block) (o : Output) : (s.commit r o).out = o := rfl
@[simp] theorem State.commit_outs (s : State) (r : Block) (o : Output) : (s.commit r o).outs = s.outs ++ o.toList := rfl
@[simp] theorem State.commit_fresh (s : State) (r : Block) (o : Output) : (s.commit r o).fresh = s.fresh := rfl

@[simp] theorem State.drawn_block (s : State) : (s.drawn).block = s.block := rfl
@[simp] theorem State.drawn_inputs (s : State) : (s.drawn).inputs = s.inputs := rfl
@[simp] theorem State.drawn_out (s : State) : (s.drawn).out = s.out := rfl
@[simp] theorem State.drawn_outs (s : State) : (s.drawn).outs = s.outs := rfl
@[simp] theorem State.drawn_fresh (s : State) : (s.drawn).fresh = s.fresh + 30 := rfl

@[simp] theorem State.offer_block (s : State) (bs : List Byte) : (s.offer bs).block = s.block := rfl
@[simp] theorem State.offer_inputs (s : State) (bs : List Byte) : (s.offer bs).inputs = byteInputs bs ++ s.inputs := rfl
@[simp] theorem State.offer_out (s : State) (bs : List Byte) : (s.offer bs).out = s.out := rfl
@[simp] theorem State.offer_outs (s : State) (bs : List Byte) : (s.offer bs).outs = s.outs := rfl
@[simp] theorem State.offer_fresh (s : State) (bs : List Byte) : (s.offer bs).fresh = s.fresh := rfl

@[simp] theorem Output.toList_none : Output.toList .none = [] := rfl
@[simp] theorem Output.toList_empty : Output.toList .empty = [.empty] := rfl
@[simp] theorem Output.toList_emit (n : CntWord) (v : Vector SumWord 12) (th : Bool) :
    Output.toList (.emit n v th) = [.emit n v th] := rfl

/-- A step with no event: only the output of the last step changes. -/
theorem State.idle_eq (s : State) : s.idle = { s with out := .none } := by
  simp [State.idle, State.commit]


@[simp] theorem Block.storeByte_st (r : Block) (b : Byte) : (r.storeByte b).st = r.st := rfl
@[simp] theorem Block.storeByte_idx (r : Block) (b : Byte) : (r.storeByte b).idx = r.idx := rfl
@[simp] theorem Block.storeByte_buf (r : Block) (b : Byte) : (r.storeByte b).buf = r.buf.set r.idx.val b r.idx.isLt := rfl
@[simp] theorem Block.storeByte_sum (r : Block) (b : Byte) : (r.storeByte b).sum = r.sum := rfl
@[simp] theorem Block.storeByte_cnt (r : Block) (b : Byte) : (r.storeByte b).cnt = r.cnt := rfl
@[simp] theorem Block.storeByte_ovf (r : Block) (b : Byte) : (r.storeByte b).ovf = r.ovf := rfl
@[simp] theorem Block.storeByte_status (r : Block) (b : Byte) : (r.storeByte b).status = r.status := rfl
@[simp] theorem Block.storeByte_avgEn (r : Block) (b : Byte) : (r.storeByte b).avgEn = r.avgEn := rfl
@[simp] theorem Block.storeByte_thMode (r : Block) (b : Byte) : (r.storeByte b).thMode = r.thMode := rfl

@[simp] theorem Block.endFrame_st (r : Block) (b : Byte) : (r.endFrame b).st = .seekFirst := rfl
@[simp] theorem Block.endFrame_idx (r : Block) (b : Byte) : (r.endFrame b).idx = 0 := rfl
@[simp] theorem Block.endFrame_buf (r : Block) (b : Byte) : (r.endFrame b).buf = r.lastBuf b := rfl
@[simp] theorem Block.endFrame_sum (r : Block) (b : Byte) : (r.endFrame b).sum = r.sum := rfl
@[simp] theorem Block.endFrame_cnt (r : Block) (b : Byte) : (r.endFrame b).cnt = r.cnt := rfl
@[simp] theorem Block.endFrame_ovf (r : Block) (b : Byte) : (r.endFrame b).ovf = r.ovf := rfl
@[simp] theorem Block.endFrame_status (r : Block) (b : Byte) : (r.endFrame b).status = r.status := rfl
@[simp] theorem Block.endFrame_avgEn (r : Block) (b : Byte) : (r.endFrame b).avgEn = r.avgEn := rfl
@[simp] theorem Block.endFrame_thMode (r : Block) (b : Byte) : (r.endFrame b).thMode = r.thMode := rfl

@[simp] theorem Block.takeDeadline_st (r : Block) : (r.takeDeadline).st = .halt := rfl
@[simp] theorem Block.takeDeadline_idx (r : Block) : (r.takeDeadline).idx = 0 := rfl
@[simp] theorem Block.takeDeadline_buf (r : Block) : (r.takeDeadline).buf = r.buf := rfl
@[simp] theorem Block.takeDeadline_sum (r : Block) : (r.takeDeadline).sum = r.sum := rfl
@[simp] theorem Block.takeDeadline_cnt (r : Block) : (r.takeDeadline).cnt = r.cnt := rfl
@[simp] theorem Block.takeDeadline_ovf (r : Block) : (r.takeDeadline).ovf = r.ovf := rfl
@[simp] theorem Block.takeDeadline_status (r : Block) : (r.takeDeadline).status = r.status := rfl
@[simp] theorem Block.takeDeadline_avgEn (r : Block) : (r.takeDeadline).avgEn = r.avgEn := rfl
@[simp] theorem Block.takeDeadline_thMode (r : Block) : (r.takeDeadline).thMode = r.thMode := rfl

@[simp] theorem Block.setOvf_st (r : Block) : (r.setOvf).st = r.st := rfl
@[simp] theorem Block.setOvf_idx (r : Block) : (r.setOvf).idx = r.idx := rfl
@[simp] theorem Block.setOvf_buf (r : Block) : (r.setOvf).buf = r.buf := rfl
@[simp] theorem Block.setOvf_sum (r : Block) : (r.setOvf).sum = r.sum := rfl
@[simp] theorem Block.setOvf_cnt (r : Block) : (r.setOvf).cnt = r.cnt := rfl
@[simp] theorem Block.setOvf_ovf (r : Block) : (r.setOvf).ovf = true := rfl
@[simp] theorem Block.setOvf_status (r : Block) : (r.setOvf).status = r.status := rfl
@[simp] theorem Block.setOvf_avgEn (r : Block) : (r.setOvf).avgEn = r.avgEn := rfl
@[simp] theorem Block.setOvf_thMode (r : Block) : (r.setOvf).thMode = r.thMode := rfl

@[simp] theorem Block.raise_badMarker (r : Block) : r.raise .badMarker = r := rfl
@[simp] theorem Block.raise_badLength (r : Block) : r.raise .badLength = r := rfl
@[simp] theorem Block.raise_badChecksum (r : Block) : r.raise .badChecksum = r := rfl
@[simp] theorem Block.raise_emptyWindow (r : Block) : r.raise .emptyWindow = { r with status := .failEmpty } := rfl
@[simp] theorem Block.raise_accOverflow (r : Block) : r.raise .accOverflow = r.setOvf := rfl

/-- Before the last payload byte the counter goes up by one (R110). -/
theorem nextIdx_val {idx : Fin 30} (h : idx.val < 29) : (nextIdx idx).val = idx.val + 1 := by
  unfold nextIdx
  rw [dif_pos (by omega)]

end Sys2Proof.Machine
end

