-- ==== Sys2Proof/Laws/Deliver.lean ====
section
/-! SUPPORT. Delivering an encoded event is performing the operation that R85 selects; delivering one list after
another; what a step does with a waiting input. -/

namespace Sys2Proof.Machine

theorem deliver_byte (b : Byte) (s : State) :
    deliver (.ev (encodeEvent (.byte b))) s = exec (selectByte (Context.ofByte s.block b) b) s := by
  simp [deliver, Context.of, select]

theorem deliver_flush (s : State) :
    deliver (.ev (encodeEvent .flush)) s =
      exec (selectFlush (Context.of s.block (.ev (encodeEvent .flush)))) s := by
  simp [deliver, select]

theorem deliver_reset (a t : Bool) (s : State) :
    deliver (.ev (encodeEvent (.reset a t))) s = exec (.reset a t) s := by
  simp [deliver, select]

@[simp] theorem deliverAll_nil (s : State) : deliverAll [] s = .next s := rfl

theorem deliverAll_cons_next {x : Input} {s t : State} (xs : List Input) (h : deliver x s = .next t) :
    deliverAll (x :: xs) s = deliverAll xs t := by
  simp [deliverAll, h]

theorem deliverAll_append_next {s t : State} (xs ys : List Input) (h : deliverAll xs s = .next t) :
    deliverAll (xs ++ ys) s = deliverAll ys t := by
  induction xs generalizing s with
  | nil => cases h; rfl
  | cons x xs ih =>
    simp only [deliverAll, List.cons_append] at h ⊢
    cases hx : deliver x s with
    | next u => rw [hx] at h; exact ih h
    | fault e => rw [hx] at h; cases h
    | refused e => rw [hx] at h; cases h

/-- A step with an input waiting delivers it to the state that no longer holds it. -/
theorem step_cons {s : State} {x : Input} {xs : List Input} (h : s.inputs = x :: xs) :
    step s = deliver x { s with inputs := xs } := by
  simp [step, State.takeInput, h]

/-- A step with nothing waiting does nothing. -/
theorem step_nil {s : State} (h : s.inputs = []) : step s = .next s.idle := by
  simp [step, State.takeInput, h]

/-- One more step of a run: what the run does after a step that answers a next state. -/
theorem run_succ_next {s t : State} (k : Nat) (h : step s = .next t) :
    Sys2Proof.core.run (k + 1) s = Sys2Proof.core.run k t := by
  have h' : Sys2Proof.core.step s = .next t := h
  simp only [Host.Core.run, h']

@[simp] theorem run_zero (s : State) : Sys2Proof.core.run 0 s = .next s := rfl

end Sys2Proof.Machine
end

