-- ==== Sys2Proof/Laws/PerInstr.lean ====
section
/-! SUPPORT. A statement made instruction by instruction: the encoded word carries the fixed bits that
spec/opcode_table.json gives the row (its `match` under its `mask`). -/

namespace Sys2Proof.Laws.TableRow

/-- `mask` and `match` of the row (spec/opcode_table.json), as numbers. -/
def fixedBits : Instr → Nat × Nat
  | .reset _ _ => (0x300, 0x300)
  | .ignHalt _ => (0x000, 0x000)
  | .ignFlush => (0x300, 0x200)
  | .flushEmpty => (0x300, 0x200)
  | .flushOk => (0x300, 0x200)
  | .seek1Hit => (0x3FF, 0x142)
  | .seek1Miss _ => (0x300, 0x100)
  | .seek2Hit => (0x3FF, 0x14D)
  | .seek2Miss _ => (0x300, 0x100)
  | .collect _ => (0x300, 0x100)
  | .lastRejlen _ => (0x300, 0x100)
  | .lastRejcsum _ => (0x300, 0x100)
  | .lastForward _ => (0x300, 0x100)
  | .lastAccum _ => (0x300, 0x100)
  | .lastOvf _ => (0x300, 0x100)
  | .frame _ _ _ => (0xFFFFFFFF <<< 224, 0x424D001C <<< 224)

/-- The encoded instruction as the number the table numbers the bits of. -/
def number : Input → Nat
  | .ev w => w.toNat
  | .frame w => w.toNat

/-- The fixed bits of the row stand in the encoded word. -/
def Statement (i : Instr) : Prop := number (encode i) &&& (fixedBits i).1 = (fixedBits i).2

theorem byte_fixed (b : Byte) : (encodeEvent (.byte b)).toNat &&& 0x300 = 0x100 := by
  revert b
  decide

theorem reset (avgEn thMode : Bool) : Statement (.reset avgEn thMode) := by
  cases avgEn <;> cases thMode <;> rfl

theorem ignHalt (e : HaltedEvent) : Statement (.ignHalt e) := Nat.and_zero _

theorem ignFlush : Statement .ignFlush := rfl

theorem flushEmpty : Statement .flushEmpty := rfl

theorem flushOk : Statement .flushOk := rfl

theorem seek1Hit : Statement .seek1Hit := rfl

theorem seek1Miss (b : Byte) : Statement (.seek1Miss b) := byte_fixed b

theorem seek2Hit : Statement .seek2Hit := rfl

theorem seek2Miss (b : Byte) : Statement (.seek2Miss b) := byte_fixed b

theorem collect (b : Byte) : Statement (.collect b) := byte_fixed b

theorem lastRejlen (b : Byte) : Statement (.lastRejlen b) := byte_fixed b

theorem lastRejcsum (b : Byte) : Statement (.lastRejcsum b) := byte_fixed b

theorem lastForward (b : Byte) : Statement (.lastForward b) := byte_fixed b

theorem lastAccum (b : Byte) : Statement (.lastAccum b) := byte_fixed b

theorem lastOvf (b : Byte) : Statement (.lastOvf b) := byte_fixed b

/-- Bit `j` of a packing comes from the newest word below 16, from the words before above it. -/
theorem pack_getLsbD (a : FrameWord) (w : Word) (j : Nat) (h : j < 256) :
    (a <<< 16 ||| w.setWidth 256).getLsbD j = if j < 16 then w.getLsbD j else a.getLsbD (j - 16) := by
  by_cases h16 : j < 16
  · simp [h, h16]
  · have hw : w.getLsbD j = false := BitVec.getLsbD_of_ge _ _ (by omega)
    have hj : j - 16 < 256 := by omega
    simp [h, h16, hw, BitVec.getLsbD_eq_getElem hj]

/-- The first 32 bits on the wire are the marker and the length. -/
theorem frameWord_top (ch : Vector Word 12) (rsv csum : Word) (k : Fin 32) :
    (Machine.frameWord ch rsv csum).getLsbD (224 + k.val) = (0x424D001C : Nat).testBit k.val := by
  simp only [Machine.frameWord, Machine.packWords, List.foldl_cons, List.foldl_nil]
  fin_cases k <;> simp only [pack_getLsbD, Nat.reduceAdd, Nat.reduceLT, Nat.reduceSub, if_false, if_true] <;> rfl

/-- Masking with a shifted mask looks at the shifted number. -/
theorem and_shiftLeft_eq (x m k : Nat) : x &&& (m <<< k) = ((x >>> k) &&& m) <<< k := by
  apply Nat.eq_of_testBit_eq
  intro j
  by_cases h : k ≤ j
  · simp [h]
  · simp [h]

theorem frame (ch : Vector Word 12) (rsv csum : Word) : Statement (.frame ch rsv csum) := by
  have top : (Machine.frameWord ch rsv csum).extractLsb' 224 32 = 0x424D001C#32 := by
    apply BitVec.eq_of_getLsbD_eq
    intro k hk
    rw [BitVec.getLsbD_extractLsb', frameWord_top ch rsv csum ⟨k, hk⟩, BitVec.getLsbD_ofNat]
  have num : ((Machine.frameWord ch rsv csum).toNat >>> 224) &&& (2 ^ 32 - 1) = 0x424D001C := by
    rw [Nat.and_two_pow_sub_one_eq_mod, ← BitVec.extractLsb'_toNat, top]
    rfl
  change (Machine.frameWord ch rsv csum).toNat &&& ((2 ^ 32 - 1) <<< 224) = 0x424D001C <<< 224
  rw [and_shiftLeft_eq, num]

end Sys2Proof.Laws.TableRow
end

