-- ==== Sys2Proof/Laws/Ports.lean ====
section
/-! SUPPORT. What stands on `out_count` and `out_ch`, case by case; the last output never influences a delivered
event. -/

namespace Sys2Proof.Machine

theorem State.portData_emit {s : State} {n : CntWord} {v : Vector SumWord 12} {th : Bool} (h : s.out = .emit n v th) :
    s.portData = some (n, v) := by
  simp [State.portData, h]

theorem State.portData_halt {s : State} (h : s.block.st = .halt) (ho : ∀ n v th, s.out ≠ .emit n v th) :
    s.portData = some (s.block.cnt, s.block.sum) := by
  cases hs : s.out with
  | emit n v th => exact absurd hs (ho n v th)
  | none => simp [State.portData, hs, h]
  | empty => simp [State.portData, hs, h]

theorem State.portData_running {s : State} (h : s.block.st ≠ .halt) (ho : ∀ n v th, s.out ≠ .emit n v th) :
    s.portData = none := by
  cases hs : s.out with
  | emit n v th => exact absurd hs (ho n v th)
  | none => simp [State.portData, hs, h]
  | empty => simp [State.portData, hs, h]

/-- Every step overwrites the last output without reading it. -/
theorem deliver_out_irrelevant (w : EvWord) (s : State) (o : Output) :
    deliver (.ev w) { s with out := o } = deliver (.ev w) s := by
  simp only [deliver]
  cases decode (Context.of s.block (.ev w)) (.ev w) with
  | error e => rfl
  | ok i => cases i <;> rfl

end Sys2Proof.Machine
end

