-- ==== Sys2Proof/Tests/Slice0.lean ====
section
/-! SUPPORT. Tests. Expected results come from spec/95_test_vectors.md (V, P), from the examples of the rules, or are
worked by hand from them; the source is named at each test. -/

namespace Sys2Proof.Tests

open Machine

/-- The block after `RESET(avg, 0)` in sequencing state `st`. -/
def at_ (st : SeqState) (avg : Bool) : Block := { Block.reset with st := st, avgEn := avg }

/-- The machine holding this block, with these event words waiting. -/
def mach (r : Block) (ws : List EvWord) : State := { State.reset with block := r, inputs := ws.map .ev }

/-- The 30 payload bytes of frame A (95, table of named frames). -/
def payloadA : Buf :=
  #v[0x00, 0x1C, 0x00, 0x05, 0x00, 0x08, 0x00, 0x09, 0x00, 0x05, 0x00, 0x08, 0x00, 0x09, 0x04,
     0x26, 0x01, 0x2D, 0x00, 0x34, 0x00, 0x06, 0x00, 0x02, 0x00, 0x00, 0x00, 0x00, 0x01, 0x6B]

/-- The 30 payload bytes of frame B (95, table of named frames). -/
def payloadB : Buf :=
  #v[0x00, 0x1C, 0x00, 0x07, 0x00, 0x0C, 0x00, 0x0F, 0x00, 0x07, 0x00, 0x0C, 0x00, 0x0F, 0x05,
     0xDC, 0x01, 0xA4, 0x00, 0x3C, 0x00, 0x0A, 0x00, 0x04, 0x00, 0x02, 0x00, 0x00, 0x02, 0xC1]

/-- The channels of frames A and B (95, table of named frames). -/
def chA : Vector Word 12 := #v[5, 8, 9, 5, 8, 9, 1062, 301, 52, 6, 2, 0]

def lanesA : Vector SumWord 12 := #v[5, 8, 9, 5, 8, 9, 1062, 301, 52, 6, 2, 0]

def lanesB : Vector SumWord 12 := #v[7, 12, 15, 7, 12, 15, 1500, 420, 60, 10, 4, 2]

def lanesAB : Vector SumWord 12 := #v[12, 20, 24, 12, 20, 24, 2562, 721, 112, 16, 6, 2]

/-- Frame A as the 256-bit value of R76 (95, table of named frames). -/
def wordA : FrameWord := 0x424D001C000500080009000500080009_0426012D003400060002000000000_16B#256

/-- Waiting for the last byte of a frame whose other 29 payload bytes are `p`'s; the stale last byte is `0xEE`. -/
def lastOf (p : Buf) (avg : Bool) (cnt : CntWord) (sum : Vector SumWord 12) : Block :=
  { Block.reset with st := .collect, idx := 29, buf := p.set 29 0xEE#8, avgEn := avg, cnt := cnt, sum := sum }

/-- What a test looks at of a step's result: the field `f`, if there is a next state. -/
def after {α : Type} (o : Host.Outcome State Fault Refusal) (f : State → α) : Option α :=
  match o with
  | .next t => some (f t)
  | _ => none

/-! Well-formedness: one ill-formed term for each check (R100, R103, R77). -/

theorem test_wf_refuses_seek1_miss_of_marker : (Instr.seek1Miss 0x42#8).wellFormed = false := by decide
theorem test_wf_refuses_seek2_miss_of_marker : (Instr.seek2Miss 0x4D#8).wellFormed = false := by decide
theorem test_wf_refuses_frame_with_wrong_checksum :
    (Instr.frame chA 0#16 0x016C#16).wellFormed = false := by decide
theorem test_wf_takes_frame_A : (Instr.frame chA 0#16 0x016B#16).wellFormed = true := by decide
/-- Frame A' (95): the reserved word is summed. -/
theorem test_wf_reserved_word_is_summed : (Instr.frame chA 0x9700#16 0x0202#16).wellFormed = true := by decide

/-! Decoding: every constructor from a word written out from R78 (kind, then data) or R76. -/

theorem test_decode_reset : decode (Context.of (at_ .halt true) (.ev 0b11_00000010#10)) (.ev 0b11_00000010#10)
    = .ok (.reset false true) := by decide
theorem test_decode_reset_ignores_upper_bits :
    decode (Context.of (at_ .halt true) (.ev 0b11_11111101#10)) (.ev 0b11_11111101#10)
    = .ok (.reset true false) := by decide
theorem test_decode_ign_halt_byte : decode (Context.of (at_ .halt true) (.ev 0b01_01000010#10)) (.ev 0b01_01000010#10)
    = .ok (.ignHalt (.byte 0x42#8)) := by decide
theorem test_decode_ign_halt_flush : decode (Context.of (at_ .halt true) (.ev 0b10_00000000#10)) (.ev 0b10_00000000#10)
    = .ok (.ignHalt .flush) := by decide
theorem test_decode_ign_flush :
    decode (Context.of (at_ .seekSecond false) (.ev 0b10_10101010#10)) (.ev 0b10_10101010#10)
    = .ok .ignFlush := by decide
theorem test_decode_flush_empty :
    decode (Context.of (at_ .collect true) (.ev 0b10_00000000#10)) (.ev 0b10_00000000#10)
    = .ok .flushEmpty := by decide
theorem test_decode_flush_ok :
    decode (Context.of { at_ .collect true with cnt := 1#32 } (.ev 0b10_00000000#10)) (.ev 0b10_00000000#10)
    = .ok .flushOk := by decide
theorem test_decode_seek1_hit :
    decode (Context.of (at_ .seekFirst true) (.ev 0b01_01000010#10)) (.ev 0b01_01000010#10) = .ok .seek1Hit := by decide
theorem test_decode_seek1_miss :
    decode (Context.of (at_ .seekFirst true) (.ev 0b01_01001101#10)) (.ev 0b01_01001101#10)
    = .ok (.seek1Miss 0x4D#8) := by decide
theorem test_decode_seek2_hit :
    decode (Context.of (at_ .seekSecond true) (.ev 0b01_01001101#10)) (.ev 0b01_01001101#10) = .ok .seek2Hit := by decide
theorem test_decode_seek2_miss :
    decode (Context.of (at_ .seekSecond true) (.ev 0b01_01000010#10)) (.ev 0b01_01000010#10)
    = .ok (.seek2Miss 0x42#8) := by decide
theorem test_decode_collect :
    decode (Context.of { at_ .collect true with idx := 28 } (.ev 0b01_00000001#10)) (.ev 0b01_00000001#10)
    = .ok (.collect 0x01#8) := by decide
/-- V20: bad length and bad checksum together. -/
theorem test_decode_last_rejlen :
    decode (Context.of (lastOf (payloadA.set 1 0x14#8) false 0 lanesA) (.ev 0b01_00000000#10)) (.ev 0b01_00000000#10)
    = .ok (.lastRejlen 0x00#8) := by decide
/-- V16. -/
theorem test_decode_last_rejcsum :
    decode (Context.of (lastOf payloadA false 0 lanesA) (.ev 0b01_01101100#10)) (.ev 0b01_01101100#10)
    = .ok (.lastRejcsum 0x6C#8) := by decide
/-- P1, step 33. -/
theorem test_decode_last_forward :
    decode (Context.of (lastOf payloadA false 0 lanesA) (.ev 0b01_01101011#10)) (.ev 0b01_01101011#10)
    = .ok (.lastForward 0x6B#8) := by decide
/-- V26: the counter is one below full here. -/
theorem test_decode_last_accum :
    decode (Context.of (lastOf payloadA true 0xFFFFFFFE lanesA) (.ev 0b01_01101011#10)) (.ev 0b01_01101011#10)
    = .ok (.lastAccum 0x6B#8) := by decide
/-- R133 at `CNT_W = 32`. -/
theorem test_decode_last_ovf :
    decode (Context.of (lastOf payloadA true 0xFFFFFFFF lanesA) (.ev 0b01_01101011#10)) (.ev 0b01_01101011#10)
    = .ok (.lastOvf 0x6B#8) := by decide
/-- Frame A as bits (R76). -/
theorem test_decode_frame : decodeFrame wordA = .ok (.frame chA 0#16 0x016B#16) := by decide
theorem test_decode_refuses_kind_0 : decodeEvent 0b00_01000010#10 = .error .noEvent := by decide
theorem test_decode_refuses_frame_with_bad_marker : decodeFrame (wordA ^^^ 1#256 <<< 240) = .error .badMarker := by
  decide
theorem test_decode_refuses_frame_with_bad_length : decodeFrame (wordA ^^^ 1#256 <<< 224) = .error .badLength := by
  decide
theorem test_decode_refuses_frame_with_bad_checksum : decodeFrame (wordA ^^^ 1#256) = .error .badChecksum := by decide

/-! The table words after reset (log 7, log 16). -/

theorem test_table_reset : decodeTableWord 16 0x300 = some (.reset false false) := by decide
theorem test_table_flush : decodeTableWord 16 0x200 = some .ignFlush := by decide
theorem test_table_byte : decodeTableWord 16 0x142 = some .seek1Hit := by decide
theorem test_table_frame : decodeTableWord 256 wordA.toNat = some (.frame chA 0#16 0x016B#16) := by decide
theorem test_table_no_event : decodeTableWord 16 0x042 = none := by decide
theorem test_fetch_word_runs : after (step (State.reset.withFetchWord 16 0x142)) (·.block)
    = some (at_ .seekSecond false) := by decide
theorem test_fetch_frame_runs : after (step (State.reset.withFetchWord 256 wordA.toNat)) (·.inputs.take 3)
    = some [.ev 0x142#10, .ev 0x14D#10, .ev 0x100#10] := by decide

/-! Encoding: words written out from R78, the bits of frame A from R76. -/

theorem test_encode_reset : encode (.reset true false) = .ev 0b11_00000001#10 := by decide
theorem test_encode_ign_halt : encode (.ignHalt (.byte 0xA5#8)) = .ev 0b01_10100101#10 := by decide
theorem test_encode_flush : encode .flushOk = .ev 0b10_00000000#10 := by decide
theorem test_encode_frame : encode (.frame chA 0#16 0x016B#16) = .frame wordA := by decide

/-! One step of each operation. -/

/-- R150's example, with `buf` left out: it is unspecified. -/
theorem test_reset_aggregate :
    after (step (mach { at_ .halt true with status := .doneOk, cnt := 2, sum := lanesA } [0x302#10]))
    (fun t => (t.block.st, t.block.status, t.block.cnt, t.block.sum[6])) = some (.seekFirst, .run, 0#32, 0#48) := by
  decide
/-- R150: the modes come from the event, `ovf` is cleared. -/
theorem test_reset_modes : after (step (mach { at_ .halt true with ovf := true } [0x302#10]))
    (fun t => (t.block.ovf, t.block.avgEn, t.block.thMode)) = some (false, false, true) := by decide
/-- V39: a byte after the halt. -/
theorem test_ign_halt : after (step (mach { at_ .halt true with status := .failEmpty } [0x142#10])) (·.block)
    = some { at_ .halt true with status := .failEmpty } := by decide
/-- R151's example. -/
theorem test_ign_flush : after (step (mach { at_ .collect false with idx := 7 } [0x200#10]))
    (fun t => (t.block, t.outs)) = some ({ at_ .collect false with idx := 7 }, []) := by decide
/-- V29 and R135's example: a frame in collection is dropped. -/
theorem test_flush_empty : after (step (mach { at_ .collect true with idx := 29 } [0x200#10]))
    (fun t => (t.block, t.out)) = some ({ at_ .halt true with status := .failEmpty }, .empty) := by decide
/-- R134's example (V26's last step). -/
theorem test_flush_ok : after (step (mach { at_ .seekSecond true with cnt := 2, sum := lanesAB } [0x200#10]))
    (fun t => (t.block, t.out)) = some ({ at_ .halt true with status := .doneOk, cnt := 2, sum := lanesAB },
      .emit 2 lanesAB false) := by decide
/-- V3. -/
theorem test_seek1_hit : after (step (mach (at_ .seekFirst false) [0x142#10])) (·.block.st) = some .seekSecond := by
  decide
/-- V2. -/
theorem test_seek1_miss : after (step (mach (at_ .seekFirst false) [0x14D#10])) (·.block)
    = some (at_ .seekFirst false) := by decide
/-- V4. -/
theorem test_seek2_hit : after (step (mach (at_ .seekSecond false) [0x14D#10])) (·.block)
    = some (at_ .collect false) := by decide
/-- V6: a failed second byte that is itself `0x42`. -/
theorem test_seek2_miss : after (step (mach (at_ .seekSecond false) [0x142#10])) (·.block.st)
    = some .seekFirst := by decide
/-- R110's example; V19: a marker byte in the payload is data. -/
theorem test_collect : after (step (mach { at_ .collect false with idx := 1 } [0x142#10]))
    (fun t => (t.block.buf[1], t.block.buf[0], t.block.idx, t.block.st)) = some (0x42#8, 0#8, 2, .collect) := by decide
/-- V14: the length is wrong although the checksum over the bytes sent is right. -/
theorem test_last_rejlen : after (step (mach (lastOf ((payloadA.set 1 0x14#8).set 29 0x63#8) true 1 lanesA) [0x163#10]))
    (fun t => (t.block.st, t.block.cnt, t.block.sum, t.outs)) = some (.seekFirst, 1#32, lanesA, []) := by decide
/-- V17: the checksum word is read big-endian. -/
theorem test_last_rejcsum :
    after (step (mach (lastOf (payloadB.set 28 0xC1#8) true 1 lanesA) [0x102#10]))
    (fun t => (t.block.st, t.block.idx, t.block.cnt, t.outs)) = some (.seekFirst, 0, 1#32, []) := by decide
/-- P1, step 33: one `Emit`, the aggregate untouched, the last byte in the buffer. -/
theorem test_last_forward : after (step (mach (lastOf payloadA false 0 (vec12 fun _ => 0)) [0x16B#10]))
    (fun t => (t.block.st, t.block.buf, t.block.cnt, t.block.sum[6], t.outs))
    = some (.seekFirst, payloadA, 0#32, 0#48, [.emit 1 lanesA false]) := by decide
/-- R132's example. -/
theorem test_last_accum : after (step (mach (lastOf payloadB true 1 lanesA) [0x1C1#10]))
    (fun t => (t.block.st, t.block.cnt, t.block.sum, t.block.ovf, t.outs))
    = some (.seekFirst, 2#32, lanesAB, false, []) := by decide
/-- V32's fourth frame, at `CNT_W = 32`: left out whole, `ovf` set. -/
theorem test_last_ovf : after (step (mach (lastOf payloadB true 0xFFFFFFFF lanesA) [0x1C1#10]))
    (fun t => (t.block.st, t.block.cnt, t.block.sum, t.block.ovf, t.outs))
    = some (.seekFirst, 0xFFFFFFFF#32, lanesA, true, []) := by decide
/-- R87: `FRAME` stands for its 32 bytes; the block is unchanged. -/
theorem test_frame : after (exec (.frame chA 0#16 0x016B#16) State.reset) (fun t => (t.block, t.inputs))
    = some (Block.reset, (0x42#8 :: 0x4D#8 :: payloadA.toList).map fun b => .ev (1#2 ++ b)) := by decide
/-- R78: kind 0 changes nothing; R153: nor does waiting. -/
theorem test_kind_0_changes_nothing : after (step (mach (at_ .seekSecond true) [0x042#10])) (·.block)
    = some (at_ .seekSecond true) := by decide
theorem test_waiting_changes_nothing : after (step State.reset) id = some State.reset := by decide

/-! Clock cycles (R39, R40, R41, R169). -/

/-- R169: the byte that completes frame B and the deadline in one cycle (V26 against V31). -/
theorem test_cycle_byte_then_flush :
    after (clockEdge ⟨false, false, false, true, 0xC1#8, true⟩ (mach (lastOf payloadB true 1 lanesA) []))
    (fun t => (t.ports.outValid, t.ports.outCount, t.ports.outCh, t.ports.status, t.ports.inReady))
    = some (true, some 2#32, some lanesAB, 1#2, false) := by decide
/-- R39: `rst` alone, the byte and the flush of the cycle are dropped. -/
theorem test_cycle_reset_wins :
    after (clockEdge ⟨true, true, false, true, 0x42#8, true⟩ (mach (at_ .seekFirst false) []))
    (fun t => (t.block.st, t.block.status, t.block.cfg, t.out)) = some (.seekFirst, .run, 1#2, .none) := by decide
/-- R152: a deadline after the halt; the counter and the sums are still on their ports, without a second `Emit`. -/
theorem test_halted_ports_stay_readable :
    after (clockEdge ⟨false, false, false, true, 0x42#8, true⟩
      (mach { at_ .halt true with status := .doneOk, cnt := 2, sum := lanesAB } []))
    (fun t => (t.ports.outValid, t.ports.outCount, t.ports.outCh, t.ports.status))
    = some (false, some 2#32, some lanesAB, 1#2) := by decide
/-- R41: while the block runs, `out_count` is not meaningful without an `Emit`. -/
theorem test_running_ports_without_emit : (mach (lastOf payloadB true 1 lanesA) []).ports.outCount = none := by decide

/-! Values (R138): channel 11 of V27 and channel 8 of V26. -/

theorem test_value_temperature : emitValue 3 #v[3, 6, 9, 3, 6, 9, 300, 150, 30, 3, 705, 1368] true 10 = 47 / 2 := by
  change ((705 : Nat) : Rat) / ((3 * 10 : Nat) : Rat) = 47 / 2
  norm_num
theorem test_value_mean : emitValue 2 lanesAB false 7 = 721 / 2 := by
  change ((721 : Nat) : Rat) / ((2 * 1 : Nat) : Rat) = 721 / 2
  norm_num

/-! The invariant at reset (R24, R30, R38). -/

theorem test_reset_invariant : Block.reset.Inv := by decide

/-! Codes and views of the port binding (R21, R32, R35, R27, R162). -/

theorem test_codes : [SeqState.seekFirst, .seekSecond, .collect, .halt].map SeqState.code = [0, 1, 2, 3] ∧
    [Status.run, .doneOk, .failEmpty].map Status.code = [0, 1, 2] ∧
    { Block.reset with thMode := true }.cfg = 2#2 ∧
    { Block.reset with ovf := true, status := .failEmpty }.stat = 6#3 := by decide
theorem test_names_and_causes : channelName true 10 = "temperature" ∧ channelName false 10 = "count_5um" ∧
    (raisedCause (.lastRejcsum 0)).map Cause.code = some 3 ∧ Status.failEmpty.exitedOk = some false := by decide

/-! Witnesses: for each obligation with hypotheses a state and operands that meet them all, and one for each of its
clauses. -/

open Claims

/-- Waiting for the last byte of frame A, with an averaging aggregate of `cnt` frames. -/
def lastA (avg : Bool) (cnt : CntWord) : State := mach (lastOf payloadA avg cnt (vec12 fun _ => 0#48)) []

theorem test_witness_event_words : (0x0FF#10).toNat / 256 = 0 ∧ (0x1FF#10).toNat / 256 = 1 ∧
    (0x2FF#10).toNat / 256 = 2 ∧ (0x302#10).toNat / 256 = 3 := by decide
theorem test_witness_frame_word : wordA.toNat / 2 ^ 224 = 0x424D001C ∧
    (∑ f : Fin 30, (wordA.extractLsb' (248 - 8 * f.val) 8).toNat) % 65536 = wordA.toNat % 65536 := by decide
theorem test_witness_frame_word_refused :
    ¬ ((wordA ^^^ 1#256).toNat / 2 ^ 224 = 0x424D001C ∧
      (∑ f : Fin 30, ((wordA ^^^ 1#256).extractLsb' (248 - 8 * f.val) 8).toNat) % 65536
        = (wordA ^^^ 1#256).toNat % 65536) := by decide
theorem test_witness_decode_of_encode : (Instr.frame chA 0#16 0x016B#16).wellFormed = true ∧
    selects (Context.of Block.reset (.ev 0#10)) (.frame chA 0#16 0x016B#16) = true ∧
    (Instr.seek2Miss 0x42#8).wellFormed = true ∧
    selects (Context.of (at_ .seekSecond true) (.ev 0#10)) (.seek2Miss 0x42#8) = true := by decide
theorem test_witness_decoded : decode (Context.of Block.reset (.frame wordA)) (.frame wordA)
    = .ok (.frame chA 0#16 0x016B#16) := by decide
theorem test_witness_written_words : (Context.of (at_ .seekFirst true) (.ev 0#10)).cntZero = true ∧
    (Context.of (at_ .seekFirst true) (.ev 0#10)).avgEn = true ∧
    (Context.of (at_ .collect true) (.ev 0#10)).last = false ∧
    (Context.of (at_ .seekSecond true) (.ev 0#10)).st = .seekSecond := by decide
theorem test_witness_step_runs : (mach (at_ .seekFirst true) [0x142#10]).inputs = [.ev 0x142#10] ∧
    decode (Context.of (at_ .seekFirst true) (.ev 0x142#10)) (.ev 0x142#10) = .ok .seek1Hit := by decide
theorem test_witness_step_without : State.reset.inputs = [] ∧ (mach Block.reset [0x042#10]).inputs = [.ev 0x042#10] ∧
    decodeEvent 0x042#10 = .error .noEvent ∧ decodeFrame (wordA ^^^ 1#256 <<< 240) = .error .badMarker := by decide
theorem test_witness_step_consumes : ∃ t, step (mach (at_ .collect true) [0x142#10]) = .next t := ⟨_, rfl⟩
theorem test_witness_table : decodeEvent 0x3FD#10 = .ok (.reset true false) ∧ decodeEvent 0x2AA#10 = .ok .flush ∧
    decodeEvent 0x142#10 = .ok (.byte 0x42#8) := by decide
theorem test_witness_seek_first : decodeEvent 0x14D#10 = .ok (.byte 0x4D#8) ∧ (0x4D#8 : Byte) ≠ 0x42#8 ∧
    decodeEvent 0x142#10 = .ok (.byte 0x42#8) ∧ (mach (at_ .seekFirst true) []).block.st = .seekFirst := by decide
theorem test_witness_enters_second : ∃ t, deliver (.ev 0x142#10) (mach (at_ .seekFirst true) []) = .next t ∧
    t.block.st = .seekSecond := ⟨_, rfl, rfl⟩
theorem test_witness_seek_second : decodeEvent 0x14D#10 = .ok (.byte 0x4D#8) ∧ decodeEvent 0x142#10 = .ok (.byte 0x42#8) ∧
    (0x42#8 : Byte) ≠ 0x4D#8 ∧ (mach (at_ .seekSecond true) []).block.st = .seekSecond := by decide
theorem test_witness_scan : scanLength [0x42#8, 0x42#8, 0x4D#8, 0x42#8, 0x4D#8] = some 5 ∧
    scanLength [0x42#8, 0x42#8, 0x4D#8] = none := by decide
theorem test_witness_collect : (mach { at_ .collect true with idx := 28 } []).block.st = .collect ∧
    (mach { at_ .collect true with idx := 28 } []).block.idx.val < 29 := by decide
theorem test_witness_payload_in_order : (mach (at_ .collect true) []).block.idx = 0 ∧
    (List.replicate 29 0x42#8).length ≤ 29 := by decide
theorem test_witness_last_rejlen : (mach (lastOf (payloadA.set 0 0x1C#8) true 0 lanesA) []).block.st = .collect ∧
    (lastOf (payloadA.set 0 0x1C#8) true 0 lanesA).idx.val = 29 ∧
    lenField ((lastOf (payloadA.set 0 0x1C#8) true 0 lanesA).buf.set 29 0x6B#8) ≠ 28 := by decide
theorem test_witness_last_rejcsum : decodeEvent 0x16C#10 = .ok (.byte 0x6C#8) ∧
    lenField ((lastA true 0).block.buf.set 29 0x6C#8) = 28 ∧
    byteSum ((lastA true 0).block.buf.set 29 0x6C#8) % 65536 ≠ (lastA true 0).block.buf[28].toNat * 256 + (0x6C#8).toNat :=
  by decide
/-- The hypotheses of `LAST.FORWARD`, `LAST.ACCUM` and `LAST.OVF` up to the mode and the counter. -/
theorem test_witness_last_accepted : decodeEvent 0x16B#10 = .ok (.byte 0x6B#8) ∧ (lastA true 0).block.st = .collect ∧
    (lastA true 0).block.idx.val = 29 ∧ lenField ((lastA true 0).block.buf.set 29 0x6B#8) = 28 ∧
    byteSum ((lastA true 0).block.buf.set 29 0x6B#8) % 65536
      = (lastA true 0).block.buf[28].toNat * 256 + (0x6B#8).toNat := by decide
/-- Their modes and counters: the rest of the state is that of the witness before. -/
theorem test_witness_last_modes : (lastA false 0).block.avgEn = false ∧ (lastA true 0).block.avgEn = true ∧
    (lastA true 0).block.Inv ∧ (lastA true 0xFFFFFFFE#32).block.cnt.toNat < 2 ^ 32 - 1 ∧
    (lastA true 0xFFFFFFFF#32).block.cnt.toNat = 2 ^ 32 - 1 ∧
    (lastA true 0xFFFFFFFF#32).block.buf = (lastA true 0).block.buf ∧
    (lastA false 0).block.buf = (lastA true 0).block.buf := by decide
theorem test_witness_length_check : lenOk payloadA = true := by decide
theorem test_witness_mutation : accepts payloadA = true ∧ (0x1D#8 : Byte) ≠ payloadA[1] ∧
    (0xFF#8 : Byte) ≠ payloadA[29] := by decide
theorem test_witness_deadline : decodeEvent 0x2AA#10 = .ok .flush ∧ (at_ .seekSecond true).st ≠ .halt ∧
    (at_ .seekSecond true).avgEn = true ∧ (at_ .seekSecond true).cnt.toNat = 0 ∧
    0 < (lastA true 1).block.cnt.toNat ∧ (lastA true 1).block.st ≠ .halt ∧ (at_ .collect false).avgEn = false := by decide
theorem test_witness_modes : ¬ isReset (.ev 0x2AA#10) ∧ isFlush (.ev 0x2AA#10) ∧ isByte (.ev 0x142#10) ∧
    isReset (.ev 0x302#10) := by
  refine ⟨?_, ⟨_, rfl, by decide⟩, ⟨_, 0x42#8, rfl, by decide⟩, ⟨_, false, true, rfl, by decide⟩⟩
  rintro ⟨w, a, th, h, hd⟩
  cases h
  have h2 : decodeEvent 0x2AA#10 = .ok .flush := by decide
  rw [h2] at hd
  cases hd
theorem test_witness_modes_deliver : (∃ t, deliver (.ev 0x2AA#10) (lastA false 0) = .next t) ∧
    (∃ t, deliver (.ev 0x142#10) (lastA true 0) = .next t) ∧ (lastA false 0).block.Inv :=
  ⟨⟨_, rfl⟩, ⟨_, rfl⟩, by decide⟩
theorem test_witness_emit_value : [(chA, 0#16, 0x016B#16)] ≠ ([] : List FrameFields) ∧
    (1#32).toNat = [(chA, 0#16, 0x016B#16)].length ∧
    ∀ i : Fin 12, lanesA[i].toNat = channelTotal [(chA, 0#16, 0x016B#16)] i := by decide
theorem test_witness_reset : decodeEvent 0x302#10 = .ok (.reset false true) ∧
    (InPorts.mk true true false true 0x42#8 true).rst = true := by decide
theorem test_witness_halt : decodeEvent 0x142#10 = .ok (.byte 0x42#8) ∧ decodeEvent 0x200#10 = .ok .flush ∧
    (mach { at_ .halt true with status := .failEmpty } []).block.st = .halt := by decide
theorem test_witness_valid_frame : (Instr.frame chA 0#16 0x016B#16).wellFormed = true ∧
    encode (.frame chA 0#16 0x016B#16) = .frame wordA ∧
    (State.reset.withFetchWord 256 wordA.toNat).inputs = [.frame wordA] ∧
    (State.reset.withFetchWord 256 wordA.toNat).block.st = .seekFirst ∧
    (State.reset.withFetchWord 256 wordA.toNat).block.avgEn = false := by decide
theorem test_witness_invalid_frame : decodeFrame (wordA ^^^ 1#256 <<< 224) = .error .badLength ∧
    decodeFrame (wordA ^^^ 1#256) = .error .badChecksum ∧ Block.reset.st = .seekFirst := by decide
theorem test_witness_window : AllValid [(chA, 0#16, 0x016B#16), (chA, 0x9700#16, 0x0202#16)] ∧
    (at_ .seekFirst true).Inv ∧ (at_ .seekFirst true).avgEn = true ∧ (at_ .seekFirst true).cnt.toNat + 2 ≤ 2 ^ 32 - 1 := by
  refine ⟨fun f hf => ?_, by decide⟩
  simp only [List.mem_cons, List.not_mem_nil, or_false] at hf
  rcases hf with rfl | rfl <;> decide
theorem test_witness_one_output : decodeEvent 0x142#10 = .ok (.byte 0x42#8) ∧ decodeEvent 0x200#10 = .ok .flush ∧
    (at_ .collect true).avgEn = true ∧ (at_ .collect true).st ≠ .halt := by decide
/-- A stray byte, frame A, then a false marker: one accepted frame (R58, R104). -/
theorem test_witness_accepted :
    acceptedIn ([0x00#8] ++ wireBytes chA 0#16 0x016B#16 ++ [0x42#8, 0x4D#8, 0x00#8]) = [payloadA] := by decide
theorem test_witness_accepted_none : acceptedIn (wireBytes chA 0#16 0x016C#16) = [] := by decide
theorem test_witness_invariant : State.reset.Inv := by
  refine ⟨by decide, fun o ho => ?_⟩
  cases ho
theorem test_witness_invariant_step : ∃ t, step State.reset = .next t := ⟨_, rfl⟩
theorem test_witness_halt_entered : (∃ t, deliver (.ev 0x200#10) (lastA true 1) = .next t ∧ t.block.st = .halt) ∧
    (∃ t, deliver (.ev 0x200#10) (lastA true 0) = .next t ∧ t.block.st = .halt) ∧
    (∃ t, deliver (.ev 0x142#10) (mach { at_ .halt true with status := .failEmpty } []) = .next t ∧
      t.block.st = .halt) := ⟨⟨_, rfl, rfl⟩, ⟨_, rfl, rfl⟩, ⟨_, rfl, rfl⟩⟩
theorem test_witness_halted_deliver :
    (∃ t, deliver (.ev 0x142#10) (mach { at_ .halt true with status := .failEmpty } []) = .next t) ∧
    (∃ t, deliver (.ev 0x302#10) (mach { at_ .halt true with status := .failEmpty } []) = .next t) :=
  ⟨⟨_, rfl⟩, ⟨_, rfl⟩⟩
theorem test_witness_deadline_in_frame : (at_ .seekSecond true).avgEn = { at_ .collect true with idx := 7 }.avgEn ∧
    { at_ .collect true with idx := 7 }.st ≠ .halt ∧
    (∃ t, deliver (.ev 0x200#10) (mach (at_ .seekSecond true) []) = .next t) ∧
    (∃ t, deliver (.ev 0x200#10) (mach { at_ .collect true with idx := 7 } []) = .next t) :=
  ⟨by decide, by decide, ⟨_, rfl⟩, ⟨_, rfl⟩⟩
/-- The two states differ in the last payload byte, which has not been received. -/
theorem test_witness_dead_bytes : AgreeButDeadBytes (lastA true 0) (mach (lastOf payloadA true 0 (vec12 fun _ => 0#48)) [])
    ∧ AgreeButDeadBytes (mach { at_ .collect true with idx := 29 } [])
        (mach { at_ .collect true with idx := 29, buf := Block.reset.buf.set 29 1#8 } [])
    ∧ Block.reset.buf ≠ Block.reset.buf.set 29 1#8 := by
  refine ⟨⟨rfl, rfl, rfl, rfl, rfl, fun _ _ _ => rfl⟩, ⟨rfl, rfl, rfl, rfl, rfl, fun _ j hj => ?_⟩, by decide⟩
  revert j
  decide
theorem test_witness_clock : (mach (at_ .collect true) []).block.st ≠ .halt ∧
    (mach { at_ .halt true with status := .failEmpty } []).block.st = .halt ∧
    (InPorts.mk false false false true 0x42#8 true).inValid = true ∧
    (InPorts.mk false false false true 0x42#8 true).rst = false := by decide

end Sys2Proof.Tests
end

section
/-! What an operation, a delivered input and a step answer: always a next state (R8). -/

namespace Sys2Proof.Machine

/-- A decoded input has the effect of the operation it decodes to (R85). -/
theorem deliver_of_decode_ok {x : Input} {s : State} {i : Instr} (h : decode (Context.of s.block x) x = .ok i) :
    deliver x s = exec i s := by
  simp only [deliver, h]

/-- An input that the decoder refuses still has an effect of its own (R78, R83). -/
theorem deliver_of_decode_error {x : Input} {s : State} {e : DecodeError}
    (h : decode (Context.of s.block x) x = .error e) : deliver x s = .next (s.undecoded x) := by
  simp only [deliver, h]

/-- Every operation completes, also in a state where R85 does not select it: each arm of `exec` is a `.next`. -/
theorem exec_eq_next (i : Instr) (s : State) : ∃ t, exec i s = .next t := by
  cases i <;> exact ⟨_, rfl⟩

/-- No delivered input stops the block, be it an event, a frame or neither. -/
theorem deliver_eq_next (x : Input) (s : State) : ∃ t, deliver x s = .next t := by
  cases h : decode (Context.of s.block x) x with
  | ok i =>
    rw [deliver_of_decode_ok h]
    exact exec_eq_next i s
  | error e => exact ⟨s.undecoded x, deliver_of_decode_error h⟩

/-- Settles O8, by whether an input is waiting: with none the step idles, with one it is a delivery. -/
theorem stepAlwaysAnswersNext : Obligations.StepAlwaysAnswersNext := by
  intro s
  cases h : s.inputs with
  | nil => exact ⟨s.idle, step_nil h⟩
  | cons x xs =>
    rw [step_cons h]
    exact deliver_eq_next x _

end Sys2Proof.Machine
end

section
/-! What an input decodes to and what its delivery then does: the operation stands for the event that selected it, its
row's condition holds (R85), and a refused input leaves the block alone (R78, R83). -/

namespace Sys2Proof.Machine

open Claims

/-- The rows of R85 that share an event: whichever is selected, its own word is the event's (R78). -/
theorem encode_select (c : Context) (e : Event) : encode (select c e) = .ev (encodeEvent e) := by
  cases e with
  | reset a th => rfl
  | flush =>
    simp only [select, selectFlush]
    split_ifs <;> rfl
  | byte b =>
    cases hst : c.st with
    | halt => simp [select, selectByte, hst, encode]
    | seekFirst => by_cases hb : b = Config.mark0 <;> simp [select, selectByte, hst, hb, encode]
    | seekSecond => by_cases hb : b = Config.mark1 <;> simp [select, selectByte, hst, hb, encode]
    | collect =>
      simp only [select, selectByte, hst, selectLast]
      split_ifs <;> rfl

/-- The operation selected for an event is one whose condition on the state holds. -/
theorem selects_select (c : Context) (e : Event) : selects c (select c e) = true := by
  cases e with
  | reset a th => rfl
  | flush =>
    simp only [select, selectFlush]
    split_ifs <;> simp_all [selects]
  | byte b =>
    cases hst : c.st with
    | halt => simp [select, selectByte, hst, selects]
    | seekFirst => by_cases hb : b = Config.mark0 <;> simp [select, selectByte, hst, hb, selects]
    | seekSecond => by_cases hb : b = Config.mark1 <;> simp [select, selectByte, hst, hb, selects]
    | collect =>
      simp only [select, selectByte, hst, selectLast]
      split_ifs <;> simp_all [selects]

theorem encodeEvent_injective {e e' : Event} (h : encodeEvent e = encodeEvent e') : e = e' := by
  have decoded : ∀ e : Event, decodeEvent (encodeEvent e) = .ok e := by
    intro e
    cases e <;> simp
  simpa [decoded] using congrArg decodeEvent h

/-- Only a `RESET` event selects `RESET`. -/
theorem select_eq_reset_iff {c : Context} {e : Event} {a th : Bool} :
    select c e = .reset a th ↔ e = .reset a th := by
  constructor
  · intro h
    have hword : encode (.reset a th) = .ev (encodeEvent e) := h ▸ encode_select c e
    exact encodeEvent_injective (Input.ev.inj hword).symm
  · rintro rfl
    rfl

theorem decodeFrame_ok {w : FrameWord} {i : Instr} (h : decodeFrame w = .ok i) :
    ∃ ch rsv csum, i = .frame ch rsv csum := by
  simp only [decodeFrame] at h
  split_ifs at h
  exact ⟨_, _, _, (Except.ok.inj h).symm⟩

/-- What decodes is an event word, to the operation R85 selects for its event, or a wire frame, to `FRAME`. -/
theorem decode_ok_cases {c : Context} {x : Input} {i : Instr} (h : decode c x = .ok i) :
    (∃ w e, x = .ev w ∧ decodeEvent w = .ok e ∧ i = select c e) ∨
      ∃ w ch rsv csum, x = .frame w ∧ i = .frame ch rsv csum := by
  cases x with
  | ev w =>
    cases hw : decodeEvent w with
    | ok e => exact .inl ⟨w, e, rfl, hw, by simpa [decode, hw] using h.symm⟩
    | error d => simp [decode, hw] at h
  | frame w =>
    obtain ⟨ch, rsv, csum, rfl⟩ := decodeFrame_ok h
    exact .inr ⟨w, ch, rsv, csum, rfl, rfl⟩

theorem selects_of_decode {c : Context} {x : Input} {i : Instr} (h : decode c x = .ok i) : selects c i = true := by
  obtain ⟨w, e, -, -, rfl⟩ | ⟨w, ch, rsv, csum, -, rfl⟩ := decode_ok_cases h
  · exact selects_select c e
  · rfl

theorem decodeEvent_of_decode_reset {c : Context} {x : Input} {a th : Bool} (h : decode c x = .ok (.reset a th)) :
    ∃ w, x = .ev w ∧ decodeEvent w = .ok (.reset a th) := by
  obtain ⟨w, e, rfl, he, hsel⟩ | ⟨w, ch, rsv, csum, -, hframe⟩ := decode_ok_cases h
  · rw [select_eq_reset_iff.1 hsel.symm] at he
    exact ⟨w, rfl, he⟩
  · cases hframe

theorem decode_reset_of_decodeEvent {w : EvWord} {a th : Bool} (c : Context)
    (h : decodeEvent w = .ok (.reset a th)) : decode c (.ev w) = .ok (.reset a th) := by
  simp [decode, h, select]

@[simp] theorem State.undecoded_block (s : State) (x : Input) : (s.undecoded x).block = s.block := by
  cases x <;> rfl

/-- A delivery performs the operation that its input decodes to, or treats the input as refused. -/
theorem deliver_next_cases {x : Input} {s t : State} (h : deliver x s = .next t) :
    (∃ i, decode (Context.of s.block x) x = .ok i ∧ exec i s = .next t) ∨ t = s.undecoded x := by
  cases hd : decode (Context.of s.block x) x with
  | ok i => exact .inl ⟨i, rfl, deliver_of_decode_ok hd ▸ h⟩
  | error e =>
    rw [deliver_of_decode_error hd] at h
    exact .inr (Host.Outcome.next.inj h).symm

/-- Without a `RESET` a delivery performs an operation other than `RESET`, one that R85 selects, or leaves the block. -/
theorem deliver_next_cases_of_not_reset {x : Input} {s t : State} (hx : ¬ isReset x) (h : deliver x s = .next t) :
    (∃ i, selects (Context.of s.block x) i = true ∧ (∀ a th, i ≠ .reset a th) ∧ exec i s = .next t) ∨
      t.block = s.block := by
  obtain ⟨i, hdec, hexec⟩ | rfl := deliver_next_cases h
  · refine .inl ⟨i, selects_of_decode hdec, ?_, hexec⟩
    rintro a th rfl
    obtain ⟨w, rfl, hw⟩ := decodeEvent_of_decode_reset hdec
    exact hx ⟨w, a, th, rfl, hw⟩
  · exact .inr (s.undecoded_block x)

end Sys2Proof.Machine
end

section
/-! R33 and R34: the two mode bits. -/

namespace Sys2Proof.Machine

open Claims

theorem exec_keeps_modes {i : Instr} {s t : State} (hi : ∀ a th, i ≠ .reset a th) (h : exec i s = .next t) :
    t.block.avgEn = s.block.avgEn ∧ t.block.thMode = s.block.thMode := by
  cases i with
  | reset a th => exact absurd rfl (hi a th)
  | _ => cases h; exact ⟨rfl, rfl⟩

/-- Settles O48, by the operation performed: `RESET` writes both modes from its event, no other one writes them. -/
theorem onlyResetLoadsModes : Obligations.OnlyResetLoadsModes := by
  intro s t x h
  refine ⟨fun hx => ?_, ?_⟩
  · obtain ⟨i, -, hi, hexec⟩ | hblock := deliver_next_cases_of_not_reset hx h
    · exact exec_keeps_modes hi hexec
    · rw [hblock]
      exact ⟨rfl, rfl⟩
  · rintro w a th rfl hw
    rw [deliver_of_decode_ok (decode_reset_of_decodeEvent _ hw)] at h
    cases h
    exact ⟨rfl, rfl⟩

end Sys2Proof.Machine
end

section
/-! R28 to R31: the aggregate between resets. -/

namespace Sys2Proof.Machine

open Claims

/-- `LAST.ACCUM` is the only operation but `RESET` that writes the sums or the counter, and no other one clears
`ovf`. -/
theorem exec_aggregate_cases {i : Instr} {s t : State} (hi : ∀ a th, i ≠ .reset a th) (h : exec i s = .next t) :
    (t.block.sum = s.block.sum ∧ t.block.cnt = s.block.cnt ∧ (s.block.ovf = true → t.block.ovf = true)) ∨
      ∃ b, i = .lastAccum b ∧ t.block.sum = addLanes s.block.sum (s.block.lastBuf b) ∧
        t.block.cnt = s.block.cnt + 1#32 ∧ t.block.ovf = s.block.ovf := by
  cases i with
  | reset a th => exact absurd rfl (hi a th)
  | lastAccum b => cases h; exact .inr ⟨b, rfl, rfl, rfl, rfl⟩
  | lastOvf b => cases h; exact .inl ⟨rfl, rfl, fun _ => rfl⟩
  | _ => cases h; exact .inl ⟨rfl, rfl, id⟩

theorem cntFull_eq_false_iff (cnt : CntWord) : cntFull cnt = false ↔ cnt.toNat < 2 ^ 32 - 1 := by
  have hmax : Config.cntMax.toNat = 2 ^ 32 - 1 := by decide
  have hlt : cnt.toNat < 2 ^ 32 := cnt.isLt
  simp only [cntFull, beq_eq_false_iff_ne, ne_eq, BitVec.toNat_eq, hmax]
  omega

theorem cnt_add_one_toNat {cnt : CntWord} (h : cnt.toNat < 2 ^ 32 - 1) : (cnt + 1#32).toNat = cnt.toNat + 1 :=
  BitVec.toNat_add_of_lt (show cnt.toNat + 1 < 2 ^ 32 by omega)

/-- The room R6 leaves above R30 (a): with one more frame still to be counted no lane wraps round (R137). -/
theorem addLanes_toNat {sum : Vector SumWord 12} {cnt : CntWord} (buf : Buf) (i : Fin 12)
    (hsum : sum[i].toNat ≤ 65535 * cnt.toNat) (hcnt : cnt.toNat < 2 ^ 32 - 1) :
    (addLanes sum buf)[i].toNat = sum[i].toNat + (channel buf i).toNat := by
  have hch := (channel buf i).isLt
  have hlane : (addLanes sum buf)[i] = sum[i] + widen (channel buf i) := addLanes_getElem sum buf i i.isLt
  have hroom : sum[i].toNat + (widen (channel buf i)).toNat < 2 ^ 48 := by
    rw [widen_toNat]
    omega
  rw [hlane, BitVec.toNat_add_of_lt hroom, widen_toNat]

/-- Settles O47, by the operation performed: the aggregate changes in `LAST.ACCUM` only, whose sums and counter do not
wrap round. -/
theorem aggregateNeverDecreases : Obligations.AggregateNeverDecreases := by
  rintro s t x ⟨-, hsum, -, -⟩ hx h
  obtain ⟨i, hsel, hi, hexec⟩ | hblock := deliver_next_cases_of_not_reset hx h
  · obtain ⟨hs, hc, hovf⟩ | ⟨b, rfl, hs, hc, hovf⟩ := exec_aggregate_cases hi hexec
    · exact ⟨by rw [hc], fun i => by rw [hs], hovf⟩
    · have hfull : cntFull s.block.cnt = false := by
        simp only [selects, Bool.and_eq_true, Bool.not_eq_true'] at hsel
        exact hsel.2
      have hroom := (cntFull_eq_false_iff _).1 hfull
      refine ⟨?_, fun i => ?_, fun h => hovf.trans h⟩
      · rw [hc, cnt_add_one_toNat hroom]
        omega
      · rw [hs, addLanes_toNat _ i (hsum i) hroom]
        omega
  · simp [hblock]

end Sys2Proof.Machine
end

section
/-! R25 and R38: the payload bytes not yet received are read by no condition of R85 and by no operation it selects. -/

namespace Sys2Proof.Machine

open Claims

/-- The state with these contents in the payload buffer. -/
def State.withBuf (s : State) (p : Buf) : State := { s with block := { s.block with buf := p } }

/-- These contents hold the payload bytes that the block has received (R25). -/
def Block.Received (r : Block) (p : Buf) : Prop :=
  r.st = .collect → ∀ j : Fin 30, j.val < r.idx.val → p[j] = r.buf[j]

/-- Outside `COLLECT` no payload byte counts as received. -/
theorem Block.Received.of_not_collect {r : Block} {p : Buf} (h : r.st ≠ .collect) : r.Received p :=
  fun hst => absurd hst h

theorem agreeButDeadBytes_iff {s s' : State} :
    AgreeButDeadBytes s s' ↔ ∃ p, s' = s.withBuf p ∧ s.block.Received p := by
  obtain ⟨⟨st, idx, buf, sum, cnt, ovf, status, avgEn, thMode⟩, inputs, out, outs, fresh⟩ := s
  obtain ⟨⟨st', idx', buf', sum', cnt', ovf', status', avgEn', thMode'⟩, inputs', out', outs', fresh'⟩ := s'
  simp only [AgreeButDeadBytes, State.withBuf, Block.Received, Block.mk.injEq, State.mk.injEq]
  constructor
  · rintro ⟨rfl, rfl, rfl, rfl, ⟨rfl, rfl, -, rfl, rfl, rfl, rfl, rfl, rfl⟩, h⟩
    exact ⟨buf', by simp, fun hst j hj => (h hst j hj).symm⟩
  · rintro ⟨p, ⟨⟨rfl, rfl, rfl, rfl, rfl, rfl, rfl, rfl, rfl⟩, rfl, rfl, rfl, rfl⟩, h⟩
    exact ⟨rfl, rfl, rfl, rfl, by simp, fun hst j hj => (h hst j hj).symm⟩

/-- With the last payload byte in place the whole buffer has been received (R111). -/
theorem Block.Received.set_last {r : Block} {p : Buf} (h : r.Received p) (hst : r.st = .collect)
    (hidx : r.idx.val = 29) (b : Byte) : p.set 29 b = r.buf.set 29 b := by
  ext j hj
  by_cases hlast : j = 29
  · subst hlast
    simp
  · have hj' : p[j] = r.buf[j] := h hst ⟨j, hj⟩ (by simp only; omega)
    simp [hj', Ne.symm hlast]

/-- `COLLECT` receives one more byte (R110). -/
theorem Block.Received.set_idx {r : Block} {p : Buf} (h : r.Received p) (hst : r.st = .collect) (b : Byte)
    (j : Fin 30) (hj : j.val ≤ r.idx.val) : (p.set r.idx.val b)[j] = (r.buf.set r.idx.val b)[j] := by
  by_cases heq : r.idx.val = j.val
  · simp [heq]
  · have hj' : p[j.val] = r.buf[j.val] := h hst j (by omega)
    simp [heq, hj']

/-- Outside the last payload byte's step no row of R85 looks at the two checks. -/
theorem select_ignores_checks {c : Context} (h : ¬ (c.st = .collect ∧ c.last = true)) (l k : Bool) (e : Event) :
    select { c with lenOk := l, csumOk := k } e = select c e := by
  cases e with
  | reset a th => rfl
  | flush => rfl
  | byte b =>
    cases hst : c.st with
    | collect =>
      have hlast : c.last = false := by simpa [hst] using h
      simp [select, selectByte, hst, hlast]
    | _ => simp [select, selectByte, hst]

theorem decode_withBuf {s : State} {p : Buf} (h : s.block.Received p) (x : Input) :
    decode (Context.of (s.withBuf p).block x) x = decode (Context.of s.block x) x := by
  cases x with
  | frame w => rfl
  | ev w =>
    have hselect : select (Context.of (s.withBuf p).block (.ev w)) = select (Context.of s.block (.ev w)) := by
      by_cases hlast : s.block.st = .collect ∧ s.block.idx.val = 29
      · simp [Context.of, Context.ofByte, State.withBuf, h.set_last hlast.1 hlast.2]
      · funext e
        exact select_ignores_checks (c := Context.of s.block (.ev w))
          (by simpa [Context.of, Context.ofByte] using hlast) _ _ e
    simp only [decode, hselect]

theorem nextIdx_le (idx : Fin 30) : (nextIdx idx).val ≤ idx.val + 1 := by
  unfold nextIdx
  split <;> simp

/-- A selected operation does the same whatever the dead bytes are, and what it leaves differs in dead bytes only. -/
theorem exec_withBuf {s : State} {p : Buf} {i : Instr} {x : Input} (h : s.block.Received p)
    (hsel : selects (Context.of s.block x) i = true) :
    ∃ t q, exec i s = .next t ∧ exec i (s.withBuf p) = .next (t.withBuf q) ∧ t.block.Received q := by
  cases i with
  | ignHalt _ | ignFlush | seek1Miss _ | frame _ _ _ => exact ⟨_, p, rfl, rfl, h⟩
  | flushEmpty | flushOk | seek1Hit | seek2Miss _ => exact ⟨_, p, rfl, rfl, .of_not_collect (by simp)⟩
  | reset a th => exact ⟨_, s.freeBuf, rfl, rfl, .of_not_collect (by simp [Block.reset])⟩
  | seek2Hit => exact ⟨_, p, rfl, rfl, fun _ j hj => absurd hj (Nat.not_lt_zero _)⟩
  | collect b =>
    refine ⟨_, p.set s.block.idx.val b, rfl, rfl, fun hst j hj => h.set_idx hst b j ?_⟩
    exact Nat.lt_succ_iff.1 (Nat.lt_of_lt_of_le hj (nextIdx_le s.block.idx))
  | lastRejlen b | lastRejcsum b | lastOvf b => exact ⟨_, p.set 29 b, rfl, rfl, .of_not_collect (by simp)⟩
  | lastForward b | lastAccum b =>
    have hlast : (Context.of s.block x).st = .collect ∧ (Context.of s.block x).last = true := by
      simp only [selects, Bool.and_eq_true, decide_eq_true_eq] at hsel
      tauto
    have hbuf : (s.withBuf p).block.lastBuf b = s.block.lastBuf b := h.set_last hlast.1 (beq_iff_eq.1 hlast.2) b
    refine ⟨_, s.block.lastBuf b, rfl, ?_, .of_not_collect (by simp)⟩
    simp only [exec, execLastForward, execLastAccum, Block.endFrame, hbuf]
    rfl

theorem deliver_withBuf {s t : State} {p : Buf} (h : s.block.Received p) {x : Input} (hx : deliver x s = .next t) :
    ∃ q, deliver x (s.withBuf p) = .next (t.withBuf q) ∧ t.block.Received q := by
  have hdec := decode_withBuf h x
  cases hd : decode (Context.of s.block x) x with
  | ok i =>
    obtain ⟨u, q, hs, hp, hq⟩ := exec_withBuf h (selects_of_decode hd)
    rw [deliver_of_decode_ok hd, hs] at hx
    cases hx
    exact ⟨q, (deliver_of_decode_ok (hdec.trans hd)).trans hp, hq⟩
  | error e =>
    rw [deliver_of_decode_error hd] at hx
    cases hx
    refine ⟨p, (deliver_of_decode_error (hdec.trans hd)).trans ?_, by simpa using h⟩
    cases x <;> rfl

/-- Settles O51, by induction on the inputs: each delivery keeps the relation. -/
theorem deadPayloadBytesAreNeverRead : Obligations.DeadPayloadBytesAreNeverRead := by
  intro xs
  induction xs with
  | nil =>
    rintro s s' t h ht
    cases ht
    exact ⟨s', rfl, h⟩
  | cons x xs ih =>
    intro s s' t h ht
    obtain ⟨p, rfl, hp⟩ := agreeButDeadBytes_iff.1 h
    obtain ⟨u, hu⟩ := deliver_eq_next x s
    obtain ⟨q, hu', hq⟩ := deliver_withBuf hp hu
    rw [deliverAll_cons_next xs hu] at ht
    rw [deliverAll_cons_next xs hu']
    exact ih u _ t (agreeButDeadBytes_iff.2 ⟨q, rfl, hq⟩) ht

end Sys2Proof.Machine
end

section
/-! R39, R40 and R169: the events of one clock edge and their order. -/

namespace Sys2Proof.Machine

@[simp] theorem Output.none_merge (o : Output) : Output.merge .none o = o := rfl

theorem Output.merge_eq_ite (o o' : Output) : o.merge o' = if o = .none then o' else o := by
  cases o <;> rfl

theorem inReady_eq_true {r : Block} (h : r.st ≠ .halt) : r.inReady = true := by
  simp [Block.inReady, h]

theorem inReady_eq_false {r : Block} (h : r.st = .halt) : r.inReady = false := by
  simp [Block.inReady, h]

@[simp] theorem cycleSteps_nil (s : State) : cycleSteps [] s = .next s := rfl

/-- A cycle's first event is delivered; its output is the cycle's if it is not `None`. -/
theorem cycleSteps_cons_next {w : EvWord} {s t : State} (ws : List EvWord) (o : Output)
    (h : deliver (.ev w) s = .next t) :
    cycleSteps (w :: ws) { s with out := o } = cycleSteps ws { t with out := o.merge t.out } := by
  simp only [cycleSteps, deliver_out_irrelevant, h]

theorem clockEdge_of_words_nil {p : InPorts} {s : State} (hp : p.words s.block = []) :
    clockEdge p s = .next { s with out := .none } := by
  rw [clockEdge, hp, cycleSteps_nil]

/-- A clock edge with one event is the delivery of that event. -/
theorem clockEdge_of_words_one {p : InPorts} {s : State} {w : EvWord} (hp : p.words s.block = [w]) :
    ∃ t, deliver (.ev w) s = .next t ∧ clockEdge p s = .next t := by
  obtain ⟨t, ht⟩ := deliver_eq_next (.ev w) s
  refine ⟨t, ht, ?_⟩
  rw [clockEdge, hp, cycleSteps_cons_next _ _ ht, Output.none_merge, cycleSteps_nil]

/-- A clock edge with two events is the delivery of the one and then of the other. -/
theorem clockEdge_of_words_two {p : InPorts} {s : State} {w v : EvWord} (hp : p.words s.block = [w, v]) :
    ∃ t u, deliver (.ev w) s = .next t ∧ deliver (.ev v) t = .next u ∧
      clockEdge p s = .next { u with out := if t.out = .none then u.out else t.out } := by
  obtain ⟨t, ht⟩ := deliver_eq_next (.ev w) s
  obtain ⟨u, hu⟩ := deliver_eq_next (.ev v) t
  refine ⟨t, u, ht, hu, ?_⟩
  rw [clockEdge, hp, cycleSteps_cons_next _ _ ht, cycleSteps_cons_next _ _ hu, cycleSteps_nil, Output.none_merge,
    Output.merge_eq_ite]

/-- A byte is not taken when none is offered and not in `HALT` (R40, R152). -/
theorem byte_not_taken {p : InPorts} {r : Block} (h : p.inValid = false ∨ r.st = .halt) :
    (p.inValid && r.inReady) = false := by
  obtain h | h := h
  · simp [h]
  · simp [inReady_eq_false h]

/-- Settles O52, by the events that the input ports give: none, one, or the byte and the flush. -/
theorem clockEdgeOrdersEvents : Obligations.ClockEdgeOrdersEvents := by
  intro p s
  refine ⟨fun hrst => ?_, fun hrst hvalid hflush hst => ?_, fun hrst hbyte hflush => ?_,
    fun hrst hvalid hflush hst => ?_, fun hrst hbyte hflush => ?_⟩
  · exact clockEdge_of_words_one (by simp [InPorts.words, hrst])
  · exact clockEdge_of_words_one (by simp [InPorts.words, hrst, hvalid, hflush, inReady_eq_true hst])
  · exact clockEdge_of_words_one (by simp [InPorts.words, hrst, hflush, byte_not_taken hbyte])
  · exact clockEdge_of_words_two (by simp [InPorts.words, hrst, hvalid, hflush, inReady_eq_true hst])
  · exact clockEdge_of_words_nil (by simp [InPorts.words, hrst, hflush, byte_not_taken hbyte])

end Sys2Proof.Machine
end

section
/-! R78 and R87: the bytes of a frame as the statements write them are the encoder's. -/

namespace Sys2Proof.Machine

open Claims

/-- A byte's event word from its number is the encoder's (R78). -/
theorem byteWord_eq (b : Byte) : BitVec.ofNat 10 (0x100 + b.toNat) = encodeEvent (.byte b) := by
  have hb := b.isLt
  apply BitVec.eq_of_toNat_eq
  simp only [encodeEvent, mkEv, BitVec.toNat_ofNat, BitVec.toNat_append]
  rw [Nat.shiftLeft_eq, Nat.mul_comm, ← Nat.two_pow_add_eq_or_of_lt hb]
  omega

theorem byteWords_eq_byteInputs (bs : List Byte) : byteWords bs = byteInputs bs := by
  simp only [byteWords, byteInputs, byteWord_eq]

/-- The two bytes of a word by its number are its high and low byte (R53). -/
theorem twoBytes_eq (w : Word) : twoBytes w = [hiByte w, loByte w] := by
  have hhi : BitVec.ofNat 8 (w.toNat / 256) = hiByte w := by
    apply BitVec.eq_of_toNat_eq
    simp [hiByte, Nat.shiftRight_eq_div_pow]
  have hlo : BitVec.ofNat 8 (w.toNat % 256) = loByte w := by
    apply BitVec.eq_of_toNat_eq
    simp [loByte]
  rw [twoBytes, hhi, hlo]

theorem wireBytes_eq_frameBytes (ch : Vector Word 12) (rsv csum : Word) :
    wireBytes ch rsv csum = frameBytes ch rsv csum := by
  have hch : ch = vec12 fun i => ch[i] := by
    ext i hi
    simp
  have hlist : ch.toList = (vec12 fun i => ch[i]).toList := congrArg Vector.toList hch
  rw [frameBytes_eq, wireBytes, hlist]
  simp [vec12, twoBytes_eq]

/-- The checksum word is not in the sum that it carries (R114, R119). -/
theorem csumCalc_framePayload (ch : Vector Word 12) (rsv csum : Word) :
    csumCalc (framePayload ch rsv csum) = frameChecksum ch rsv := rfl

theorem accepts_framePayload {ch : Vector Word 12} {rsv csum : Word}
    (h : (Instr.frame ch rsv csum).wellFormed = true) : accepts (framePayload ch rsv csum) = true := by
  have hcsum : csum = frameChecksum ch rsv := beq_iff_eq.1 h
  have hlen : wordAt (framePayload ch rsv csum) 0 = Config.lenConst := wordAt_framePayload ch rsv csum 0
  have hlast : wordAt (framePayload ch rsv csum) 14 = csum := wordAt_framePayload ch rsv csum 14
  simp [accepts, lenOk, csumOk, hlen, hlast, csumCalc_framePayload, ← hcsum]

end Sys2Proof.Machine
end

section
/-! R101, R102, R110 and R111: the bytes of a frame met in `SEEK_FIRST`, up to the step of its last byte. -/

namespace Sys2Proof.Machine

/-- The state with the marker matched and `n` payload bytes in the buffer `q` (R21, R22). -/
def State.inFrame (s : State) (n : Fin 30) (q : Buf) : State :=
  { s with block := { s.block with st := .collect, idx := n, buf := q }, out := .none }

theorem byteInputs_append (bs bs' : List Byte) : byteInputs (bs ++ bs') = byteInputs bs ++ byteInputs bs' :=
  List.map_append

theorem deliverAll_singleton (x : Input) (s : State) : deliverAll [x] s = deliver x s := by
  simp only [deliverAll]
  cases deliver x s <;> rfl

theorem deliver_mark0 {s : State} (h : s.block.st = .seekFirst) :
    deliver (.ev (encodeEvent (.byte Config.mark0))) s = .next (s.commit { s.block with st := .seekSecond } .none) := by
  rw [deliver_byte]
  simp [selectByte, Context.ofByte, h, exec, execSeek1Hit]

theorem deliver_mark1 {s : State} (h : s.block.st = .seekSecond) :
    deliver (.ev (encodeEvent (.byte Config.mark1))) s =
      .next (s.commit { s.block with st := .collect, idx := 0 } .none) := by
  rw [deliver_byte]
  simp [selectByte, Context.ofByte, h, exec, execSeek2Hit]

/-- The marker, from `SEEK_FIRST` (R101, R102). -/
theorem deliverAll_marker {s : State} (h : s.block.st = .seekFirst) :
    deliverAll (byteInputs [Config.mark0, Config.mark1]) s = .next (s.inFrame 0 s.block.buf) := by
  have hsecond := deliver_mark1 (s := s.commit { s.block with st := .seekSecond } .none) rfl
  simp only [byteInputs, List.map_cons, List.map_nil]
  rw [deliverAll_cons_next _ (deliver_mark0 h), deliverAll_cons_next _ hsecond, deliverAll_nil]
  simp [State.commit, State.inFrame]

/-- A payload byte before the last (R110). -/
theorem deliver_inFrame (s : State) {n m : Fin 30} (q : Buf) (b : Byte) (h : n.val + 1 = m.val) :
    deliver (.ev (encodeEvent (.byte b))) (s.inFrame n q) = .next (s.inFrame m (q.set n.val b)) := by
  have hm : nextIdx n = m := Fin.ext ((nextIdx_val (by omega)).trans h)
  have hlast : (n.val == 29) = false := beq_false_of_ne (by omega)
  rw [deliver_byte]
  simp [selectByte, Context.ofByte, State.inFrame, hlast, exec, execCollect, hm, State.commit, Block.storeByte]

/-- The last payload byte (R111): its operation is chosen by rows 11 to 15 of R85. -/
theorem deliver_last_inFrame (s : State) (q : Buf) (b : Byte) :
    deliver (.ev (encodeEvent (.byte b))) (s.inFrame 29 q) =
      exec (selectLast (Context.ofByte (s.inFrame 29 q).block b) b) (s.inFrame 29 q) := by
  rw [deliver_byte]
  rfl

/-- The marker and the first `n` payload bytes of a frame with the payload `p` (R55). -/
def markedPrefix (p : Buf) (n : Nat) : List Byte := Config.mark0 :: Config.mark1 :: p.toList.take n

theorem markedPrefix_thirty (p : Buf) : markedPrefix p 30 = Config.mark0 :: Config.mark1 :: p.toList := by
  simp [markedPrefix]

theorem markedPrefix_succ (p : Buf) {n : Nat} (h : n < 30) : markedPrefix p (n + 1) = markedPrefix p n ++ [p[n]] := by
  have htake : p.toList.take (n + 1) = p.toList.take n ++ [p[n]] := by
    rw [List.take_succ_eq_append_getElem (by simpa using h), Vector.getElem_toList]
  simp [markedPrefix, htake]

/-- The marker and the first payload bytes of `p`: they are what has been received. -/
theorem deliverAll_markedPrefix (p : Buf) {s : State} (hst : s.block.st = .seekFirst) (n : Nat) (hn : n < 30) :
    ∃ q, deliverAll (byteInputs (markedPrefix p n)) s = .next (s.inFrame ⟨n, hn⟩ q) ∧
      (s.inFrame ⟨n, hn⟩ q).block.Received p := by
  induction n with
  | zero => exact ⟨s.block.buf, deliverAll_marker hst, fun _ j hj => absurd hj (Nat.not_lt_zero _)⟩
  | succ n ih =>
    obtain ⟨q, hq, hrec⟩ := ih (by omega)
    refine ⟨q.set n p[n], ?_, fun _ j hj => ?_⟩
    · rw [markedPrefix_succ p (by omega), byteInputs_append, deliverAll_append_next _ _ hq]
      exact deliverAll_cons_next [] (deliver_inFrame s q p[n] rfl)
    · have hset := hrec.set_idx rfl p[n] j (Nat.lt_succ_iff.1 hj)
      simpa [State.inFrame] using hset

/-- The bytes of a whole frame come down to the step of the last one, with the payload `p` in the buffer then. -/
theorem deliverAll_frame (p : Buf) {s : State} (hst : s.block.st = .seekFirst) :
    ∃ q, (s.inFrame 29 q).block.lastBuf p[29] = p ∧
      deliverAll (byteInputs (Config.mark0 :: Config.mark1 :: p.toList)) s =
        exec (selectLast (Context.ofByte (s.inFrame 29 q).block p[29]) p[29]) (s.inFrame 29 q) := by
  obtain ⟨q, hq, hrec⟩ := deliverAll_markedPrefix p hst 29 (by omega)
  refine ⟨q, (hrec.set_last rfl rfl p[29]).symm.trans (Vector.set_getElem_self _), ?_⟩
  rw [← markedPrefix_thirty, markedPrefix_succ p (by omega), byteInputs_append, deliverAll_append_next _ _ hq,
    ← deliver_last_inFrame]
  exact deliverAll_singleton _ _

end Sys2Proof.Machine
end

section
/-! R28, R29, R62 and R132: valid frames in averaging mode. -/

namespace Sys2Proof.Machine

open Claims

/-- The state with one more frame, whose payload is `p`, in the aggregate (R132). -/
def State.accumulated (s : State) (p : Buf) : State :=
  { s with
    block := { s.block with idx := 0, buf := p, sum := addLanes s.block.sum p, cnt := s.block.cnt + 1#32 }
    out := .none }

/-- An accepted frame in averaging mode with room in the counter ends in `LAST.ACCUM`. -/
theorem deliverAll_accepted_frame {p : Buf} {s : State} (hp : accepts p = true) (hst : s.block.st = .seekFirst)
    (havg : s.block.avgEn = true) (hroom : s.block.cnt.toNat < 2 ^ 32 - 1) :
    deliverAll (byteInputs (Config.mark0 :: Config.mark1 :: p.toList)) s = .next (s.accumulated p) := by
  obtain ⟨q, hq, hall⟩ := deliverAll_frame p hst
  have hfull : cntFull s.block.cnt = false := (cntFull_eq_false_iff _).2 hroom
  have hset : q.set 29 p[29] = p := hq
  obtain ⟨hlen, hcsum⟩ : lenOk p = true ∧ csumOk p = true := Bool.and_eq_true_iff.1 hp
  have hsel : selectLast (Context.ofByte (s.inFrame 29 q).block p[29]) p[29] = .lastAccum p[29] := by
    simp [selectLast, Context.ofByte, State.inFrame, hset, hlen, hcsum, havg, hfull]
  rw [hall, hsel]
  simp only [exec, execLastAccum, Block.endFrame, hq]
  simp [State.commit, State.inFrame, State.accumulated, hst]

theorem State.accumulated_cnt_toNat {s : State} (p : Buf) (hroom : s.block.cnt.toNat < 2 ^ 32 - 1) :
    (s.accumulated p).block.cnt.toNat = s.block.cnt.toNat + 1 := cnt_add_one_toNat hroom

theorem State.accumulated_sum_toNat {s : State} (p : Buf) (i : Fin 12)
    (hsum : s.block.sum[i].toNat ≤ 65535 * s.block.cnt.toNat) (hroom : s.block.cnt.toNat < 2 ^ 32 - 1) :
    (s.accumulated p).block.sum[i].toNat = s.block.sum[i].toNat + (channel p i).toNat :=
  addLanes_toNat p i hsum hroom

/-- One more frame keeps the sums within R30 (a). -/
theorem State.accumulated_sum_le {s : State} (p : Buf) (i : Fin 12)
    (hsum : s.block.sum[i].toNat ≤ 65535 * s.block.cnt.toNat) (hroom : s.block.cnt.toNat < 2 ^ 32 - 1) :
    (s.accumulated p).block.sum[i].toNat ≤ 65535 * (s.accumulated p).block.cnt.toNat := by
  have hch := (channel p i).isLt
  rw [accumulated_sum_toNat p i hsum hroom, accumulated_cnt_toNat p hroom]
  omega

theorem channelTotal_cons (f : FrameFields) (fs : List FrameFields) (i : Fin 12) :
    channelTotal (f :: fs) i = f.1[i].toNat + channelTotal fs i := by
  simp [channelTotal]

theorem byteWords_frameBytesOf_cons (f : FrameFields) (fs : List FrameFields) :
    byteWords (frameBytesOf (f :: fs)) =
      byteInputs (frameBytes f.1 f.2.1 f.2.2) ++ byteWords (frameBytesOf fs) := by
  simp only [byteWords_eq_byteInputs, frameBytesOf, List.flatMap_cons, byteInputs_append, wireBytes_eq_frameBytes]

/-- Valid frames back to back, from sums within R30 (a). -/
theorem deliverAll_valid_frames (fs : List FrameFields) (s : State) (hfs : AllValid fs)
    (hsum : ∀ i : Fin 12, s.block.sum[i].toNat ≤ 65535 * s.block.cnt.toNat) (hst : s.block.st = .seekFirst)
    (havg : s.block.avgEn = true) (hroom : s.block.cnt.toNat + fs.length ≤ 2 ^ 32 - 1) :
    ∃ t, deliverAll (byteWords (frameBytesOf fs)) s = .next t ∧
      t.block.cnt.toNat = s.block.cnt.toNat + fs.length ∧
      (∀ i : Fin 12, t.block.sum[i].toNat = s.block.sum[i].toNat + channelTotal fs i) ∧
      t.block = { s.block with buf := t.block.buf, idx := t.block.idx, sum := t.block.sum, cnt := t.block.cnt } ∧
      t.outs = s.outs ∧ t.inputs = s.inputs := by
  induction fs generalizing s with
  | nil => exact ⟨s, rfl, rfl, fun i => rfl, rfl, rfl, rfl⟩
  | cons f fs ih =>
    obtain ⟨hf, hfs⟩ := List.forall_mem_cons.1 hfs
    rw [List.length_cons] at hroom
    have hlt : s.block.cnt.toNat < 2 ^ 32 - 1 := by omega
    let p := framePayload f.1 f.2.1 f.2.2
    have hcnt := State.accumulated_cnt_toNat p hlt
    obtain ⟨t, ht, hc, hs, hblock, houts, hinputs⟩ :=
      ih (s.accumulated p) hfs (fun i => State.accumulated_sum_le p i (hsum i) hlt) hst havg (by omega)
    refine ⟨t, ?_, ?_, fun i => ?_, hblock, houts, hinputs⟩
    · rw [byteWords_frameBytesOf_cons, ← ht]
      exact deliverAll_append_next _ _ (deliverAll_accepted_frame (accepts_framePayload hf) hst havg hlt)
    · rw [hc, hcnt, List.length_cons]
      omega
    · rw [hs, State.accumulated_sum_toNat p i (hsum i) hlt, channel_framePayload, channelTotal_cons]
      omega

/-- Settles O40, by induction on the frames: the invariant bounds the sums, so that each frame is added exactly. -/
theorem framesAccumulateExactly : Obligations.FramesAccumulateExactly := by
  rintro fs s hfs ⟨-, hsum, -, -⟩ hst havg hroom
  exact deliverAll_valid_frames fs s hfs hsum hst havg hroom

end Sys2Proof.Machine
end

section
/-! R60: an event word is handled without a look at the inputs behind it, so that running the machine on a queue is
delivering in order. -/

namespace Sys2Proof.Machine

open Claims

/-- No event selects `FRAME`, the only operation that puts inputs on the queue (R87). -/
theorem select_ne_frame (c : Context) (e : Event) (ch : Vector Word 12) (rsv csum : Word) :
    select c e ≠ .frame ch rsv csum := by
  intro h
  have hword := encode_select c e
  rw [h] at hword
  cases hword

/-- An operation other than `FRAME` does not depend on the waiting inputs and keeps them. -/
theorem exec_withInputs {i : Instr} {s t : State} (hi : ∀ ch rsv csum, i ≠ .frame ch rsv csum)
    (h : exec i s = .next t) (xs : List Input) : exec i { s with inputs := xs } = .next { t with inputs := xs } := by
  cases i with
  | frame ch rsv csum => exact absurd rfl (hi ch rsv csum)
  | _ => cases h; rfl

/-- An event word is handled in the same way whatever waits behind it, and what waits stays (R9, R60). -/
theorem deliver_ev_withInputs {w : EvWord} {s t : State} (h : deliver (.ev w) s = .next t) (xs : List Input) :
    deliver (.ev w) { s with inputs := xs } = .next { t with inputs := xs } := by
  cases hw : decodeEvent w with
  | ok e =>
    have hdec : decode (Context.of s.block (.ev w)) (.ev w) = .ok (select (Context.of s.block (.ev w)) e) := by
      simp [decode, hw]
    rw [deliver_of_decode_ok hdec] at h
    exact (deliver_of_decode_ok (s := { s with inputs := xs }) hdec).trans
      (exec_withInputs (select_ne_frame _ e) h xs)
  | error d =>
    have hdec : decode (Context.of s.block (.ev w)) (.ev w) = .error d := by
      simp [decode, hw]
    rw [deliver_of_decode_error hdec] at h
    cases h
    exact deliver_of_decode_error hdec

/-- Settles O11, by induction on the event words: the first step delivers the first word, whose handling leaves the
other words waiting. -/
theorem runOfQueueIsDeliveryInOrder : Obligations.RunOfQueueIsDeliveryInOrder := by
  intro ws rest
  induction ws with
  | nil => exact fun s => rfl
  | cons w ws ih =>
    intro s
    obtain ⟨t, ht⟩ := deliver_eq_next (.ev w) s
    have hstep : step { s with inputs := .ev w :: (ws.map .ev ++ rest) } =
        .next { t with inputs := ws.map .ev ++ rest } := (step_cons rfl).trans (deliver_ev_withInputs ht _)
    rw [List.map_cons, deliverAll_cons_next _ (deliver_ev_withInputs ht rest)]
    exact (run_succ_next _ hstep).trans (ih t)

end Sys2Proof.Machine
end

section
/-! R57, R110 and R123: payload bytes before the last are stored in the order in which they come. -/

namespace Sys2Proof.Machine

open Claims

/-- `q'` is `q` with the bytes `bs` stored from place `n` on (R110). -/
def StoredFrom (n : Nat) (bs : List Byte) (q q' : Buf) : Prop :=
  (∀ (j : Nat) (hj : j < bs.length) (h30 : n + j < 30), q'[n + j] = bs[j]) ∧
  ∀ j : Fin 30, j.val < n ∨ n + bs.length ≤ j.val → q'[j] = q[j]

theorem storedFrom_nil (n : Nat) (q : Buf) : StoredFrom n [] q q :=
  ⟨fun _ hj => absurd hj (Nat.not_lt_zero _), fun _ _ => rfl⟩

theorem StoredFrom.cons {n : Nat} {b : Byte} {bs : List Byte} {q q' : Buf} (hn : n < 30)
    (h : StoredFrom (n + 1) bs (q.set n b) q') : StoredFrom n (b :: bs) q q' := by
  obtain ⟨hstored, hkept⟩ := h
  refine ⟨fun j hj h30 => ?_, fun j hj => ?_⟩
  · cases j with
    | zero =>
      have hfirst := hkept ⟨n, hn⟩ (.inl (Nat.lt_succ_self n))
      simpa using hfirst
    | succ j =>
      have hnext := hstored j (by simpa using hj) (by omega)
      simpa [Nat.add_assoc, Nat.add_comm 1 j] using hnext
  · rw [List.length_cons] at hj
    have hkeep := hkept j (by omega)
    have hne : n ≠ j.val := by omega
    simpa [hne] using hkeep

/-- Bytes that do not complete the frame being collected (R110): none of them is looked at. -/
theorem deliverAll_inFrame (s : State) (bs : List Byte) {n m : Fin 30} (q : Buf) (h : n.val + bs.length = m.val) :
    ∃ q', deliverAll (byteInputs bs) (s.inFrame n q) = .next (s.inFrame m q') ∧ StoredFrom n.val bs q q' := by
  induction bs generalizing n q with
  | nil =>
    obtain rfl : n = m := Fin.ext h
    exact ⟨q, rfl, storedFrom_nil n q⟩
  | cons b bs ih =>
    rw [List.length_cons] at h
    obtain ⟨q', hall, hq'⟩ := ih (n := ⟨n.val + 1, by omega⟩) (q.set n.val b) (by simp only; omega)
    exact ⟨q', (deliverAll_cons_next _ (deliver_inFrame s q b rfl)).trans hall, hq'.cons n.isLt⟩

/-- In `COLLECT` the state differs from the one of `inFrame` in the last output only, which no event reads. -/
theorem deliver_ev_inFrame_self {s : State} (hst : s.block.st = .collect) (w : EvWord) :
    deliver (.ev w) (s.inFrame s.block.idx s.block.buf) = deliver (.ev w) s := by
  have hstate : s.inFrame s.block.idx s.block.buf = { s with out := .none } := by
    simp [State.inFrame, ← hst]
  rw [hstate, deliver_out_irrelevant]

/-- Settles O25, by induction on the bytes: each is stored at `idx`. -/
theorem payloadIsStoredInOrder : Obligations.PayloadIsStoredInOrder := by
  intro bs s hst hidx hlen
  rw [byteWords_eq_byteInputs]
  cases bs with
  | nil =>
    exact ⟨s, rfl, by simp [hidx], fun _ hj => absurd hj (Nat.not_lt_zero _), fun _ _ => rfl, rfl, rfl, rfl, rfl⟩
  | cons b bs =>
    have hlast : (b :: bs).length < 30 := Nat.lt_succ_of_le hlen
    obtain ⟨q', hall, hstored, hkept⟩ := deliverAll_inFrame s (b :: bs) (n := s.block.idx) (m := ⟨_, hlast⟩) s.block.buf
      (by simp [hidx])
    have hfirst : s.block.idx.val = 0 := by simp [hidx]
    simp only [hfirst, Nat.zero_add] at hstored hkept
    refine ⟨s.inFrame ⟨_, hlast⟩ q', ?_, rfl, hstored, fun j hj => hkept j (.inr hj), ?_, rfl, rfl, rfl⟩
    · rw [← hall]
      simp only [byteInputs, List.map_cons, deliverAll, deliver_ev_inFrame_self hst]
    · simp [State.inFrame, ← hst]

end Sys2Proof.Machine
end

section
/-! R113 to R115 and R118: what the decoder computes of a payload, in the numbers of the spec's own formulas. -/

namespace Sys2Proof.Machine

open Claims

theorem lenOk_iff (p : Buf) : lenOk p = true ↔ lenField p = 28 := by
  have hword : (wordAt p 0).toNat = lenField p := wordAt_toNat p 0
  have hconst : Config.lenConst.toNat = 28 := by decide
  rw [lenOk, beq_iff_eq, BitVec.toNat_eq, hword, hconst]

/-- The byte sum term by term is the sum over the list of the bytes (R114). -/
theorem csumSum_eq_byteSum (p : Buf) : csumSum p = byteSum p := by
  have hp : p = vec30 fun j => p[j] := by
    ext j hj
    simp
  have hlist : p.toList = (vec30 fun j => p[j]).toList := congrArg Vector.toList hp
  simp [csumSum, hlist, vec30, byteSum, Config.csumBytes, Config.markSum, Nat.add_assoc]

theorem csumOk_iff (p : Buf) : csumOk p = true ↔ byteSum p % 65536 = csumField p := by
  have hword : (wordAt p 14).toNat = csumField p := wordAt_toNat p 14
  rw [csumOk, beq_iff_eq, BitVec.toNat_eq, hword, csumCalc, csumSum_eq_byteSum, BitVec.toNat_ofNat]

theorem accepts_iff (p : Buf) : accepts p = true ↔ lenField p = 28 ∧ byteSum p % 65536 = csumField p := by
  rw [accepts, Bool.and_eq_true, lenOk_iff, csumOk_iff]

theorem channel_toNat (p : Buf) (i : Fin 12) : (channel p i).toNat = chField p i := wordAt_toNat p _

theorem channelLanes_eq_ofFn (p : Buf) : channelLanes p = Vector.ofFn fun i => BitVec.ofNat 48 (chField p i) := by
  ext1 i hi
  rw [channelLanes_getElem, Vector.getElem_ofFn, ← channel_toNat]
  exact BitVec.eq_of_toNat_eq (by simp [widen])

end Sys2Proof.Machine
end

section
/-! R57, R111 and R117 to R133: the effect of a frame met in `SEEK_FIRST`, whole. -/

namespace Sys2Proof.Machine

/-- The state with the frame of payload `p` consumed and rejected (R121, R122). -/
def State.dropped (s : State) (p : Buf) : State := s.commit { s.block with idx := 0, buf := p } .none

/-- The state after the whole frame with the payload `p`: rejected (R121, R122), output at once (R131), left out with
the counter full (R133), or in the aggregate (R132). -/
def State.afterFrame (s : State) (p : Buf) : State :=
  if accepts p = false then s.dropped p
  else if s.block.avgEn = false then
    s.commit (s.dropped p).block (.emit 1#32 (channelLanes p) s.block.thMode)
  else if cntFull s.block.cnt = true then s.commit (s.dropped p).block.setOvf .none
  else s.accumulated p

theorem State.afterFrame_rejected (s : State) {p : Buf} (hp : accepts p = false) : s.afterFrame p = s.dropped p :=
  if_pos hp

theorem State.afterFrame_forwarded {s : State} {p : Buf} (hp : accepts p = true) (havg : s.block.avgEn = false) :
    s.afterFrame p = s.commit (s.dropped p).block (.emit 1#32 (channelLanes p) s.block.thMode) := by
  simp [afterFrame, hp, havg]

theorem State.afterFrame_accumulated {s : State} {p : Buf} (hp : accepts p = true) (havg : s.block.avgEn = true)
    (hroom : s.block.cnt.toNat < 2 ^ 32 - 1) : s.afterFrame p = s.accumulated p := by
  simp [afterFrame, hp, havg, (cntFull_eq_false_iff _).2 hroom]

/-- A frame leaves the sequencing state and the modes as they were, in every one of its cases. -/
theorem State.afterFrame_keeps (s : State) (p : Buf) :
    (s.afterFrame p).block.st = s.block.st ∧ (s.afterFrame p).block.avgEn = s.block.avgEn ∧
      (s.afterFrame p).block.thMode = s.block.thMode := by
  unfold afterFrame
  split_ifs <;> exact ⟨rfl, rfl, rfl⟩

/-- The conditions of R85 in the step of the last byte of a frame with the payload `p`, where the two checks are over
the whole payload (R111). -/
def Block.lastContext (r : Block) (p : Buf) : Context where
  st := .collect
  last := true
  lenOk := lenOk p
  csumOk := csumOk p
  avgEn := r.avgEn
  cntZero := cntZero r.cnt
  cntFull := cntFull r.cnt

/-- A whole frame from `SEEK_FIRST` comes down to the operation that its payload selects, on a state that this
operation's common part takes to the dropped frame's. -/
theorem deliverAll_frame_selectLast (p : Buf) {s : State} (hst : s.block.st = .seekFirst) :
    ∃ q, (s.inFrame 29 q).block.lastBuf p[29] = p ∧
      (s.inFrame 29 q).block.endFrame p[29] = (s.dropped p).block ∧
      deliverAll (byteInputs (Config.mark0 :: Config.mark1 :: p.toList)) s =
        exec (selectLast (s.block.lastContext p) p[29]) (s.inFrame 29 q) := by
  obtain ⟨q, hq, hall⟩ := deliverAll_frame p hst
  have hset : q.set 29 p[29] = p := hq
  have hctx : Context.ofByte (s.inFrame 29 q).block p[29] = s.block.lastContext p := by
    simp [Context.ofByte, State.inFrame, hset, Block.lastContext]
  refine ⟨q, hq, ?_, hctx ▸ hall⟩
  rw [Block.endFrame, hq]
  simp [State.inFrame, State.dropped, ← hst]

theorem deliverAll_rejected_frame {p : Buf} {s : State} (hp : accepts p = false) (hst : s.block.st = .seekFirst) :
    deliverAll (byteInputs (Config.mark0 :: Config.mark1 :: p.toList)) s = .next (s.dropped p) := by
  obtain ⟨q, -, hend, hall⟩ := deliverAll_frame_selectLast p hst
  rw [hall]
  cases hlen : lenOk p with
  | false =>
    have hsel : selectLast (s.block.lastContext p) p[29] = .lastRejlen p[29] := by
      simp [selectLast, Block.lastContext, hlen]
    rw [hsel, exec, execLastRejlen, hend]
    rfl
  | true =>
    have hcsum : csumOk p = false := by simpa [accepts, hlen] using hp
    have hsel : selectLast (s.block.lastContext p) p[29] = .lastRejcsum p[29] := by
      simp [selectLast, Block.lastContext, hlen, hcsum]
    rw [hsel, exec, execLastRejcsum, hend]
    rfl

theorem deliverAll_forwarded_frame {p : Buf} {s : State} (hp : accepts p = true) (hst : s.block.st = .seekFirst)
    (havg : s.block.avgEn = false) :
    deliverAll (byteInputs (Config.mark0 :: Config.mark1 :: p.toList)) s =
      .next (s.commit (s.dropped p).block (.emit 1#32 (channelLanes p) s.block.thMode)) := by
  obtain ⟨q, hq, hend, hall⟩ := deliverAll_frame_selectLast p hst
  obtain ⟨hlen, hcsum⟩ : lenOk p = true ∧ csumOk p = true := Bool.and_eq_true_iff.1 hp
  have hsel : selectLast (s.block.lastContext p) p[29] = .lastForward p[29] := by
    simp [selectLast, Block.lastContext, hlen, hcsum, havg]
  rw [hall, hsel, exec, execLastForward, hend, hq]
  rfl

theorem deliverAll_left_out_frame {p : Buf} {s : State} (hp : accepts p = true) (hst : s.block.st = .seekFirst)
    (havg : s.block.avgEn = true) (hfull : cntFull s.block.cnt = true) :
    deliverAll (byteInputs (Config.mark0 :: Config.mark1 :: p.toList)) s =
      .next (s.commit (s.dropped p).block.setOvf .none) := by
  obtain ⟨q, -, hend, hall⟩ := deliverAll_frame_selectLast p hst
  obtain ⟨hlen, hcsum⟩ : lenOk p = true ∧ csumOk p = true := Bool.and_eq_true_iff.1 hp
  have hsel : selectLast (s.block.lastContext p) p[29] = .lastOvf p[29] := by
    simp [selectLast, Block.lastContext, hlen, hcsum, havg, hfull]
  rw [hall, hsel, exec, execLastOvf, hend]
  rfl

/-- The marker and the 30 bytes of any payload, from `SEEK_FIRST`. -/
theorem deliverAll_whole_frame (p : Buf) {s : State} (hst : s.block.st = .seekFirst) :
    deliverAll (byteInputs (Config.mark0 :: Config.mark1 :: p.toList)) s = .next (s.afterFrame p) := by
  unfold State.afterFrame
  split_ifs with hp havg hfull
  · exact deliverAll_rejected_frame hp hst
  · exact deliverAll_forwarded_frame (eq_true_of_ne_false hp) hst havg
  · exact deliverAll_left_out_frame (eq_true_of_ne_false hp) hst (eq_true_of_ne_false havg) hfull
  · exact deliverAll_accepted_frame (eq_true_of_ne_false hp) hst (eq_true_of_ne_false havg)
      ((cntFull_eq_false_iff _).1 (eq_false_of_ne_true hfull))

end Sys2Proof.Machine
end

section
/-! R83 and R117: 256 bits with the marker that are no valid frame. -/

namespace Sys2Proof.Machine

open Claims

/-- Only the marker's test comes before the two that a 256-bit value can fail (R77). -/
theorem marker_of_decodeFrame_error {w : FrameWord}
    (h : decodeFrame w = .error .badLength ∨ decodeFrame w = .error .badChecksum) :
    frameByte w 0 = Config.mark0 ∧ frameByte w 1 = Config.mark1 := by
  have hwords : be16 (frameByte w 0) (frameByte w 1) = be16 Config.mark0 Config.mark1 := by
    by_contra hne
    simp [decodeFrame, hne] at h
  have hhi := congrArg hiByte hwords
  have hlo := congrArg loByte hwords
  simp only [hiByte_be16, loByte_be16] at hhi hlo
  exact ⟨hhi, hlo⟩

/-- The frame's tests on its length and checksum are those on its payload (R77, R113, R115). -/
theorem not_accepts_of_decodeFrame_error {w : FrameWord}
    (h : decodeFrame w = .error .badLength ∨ decodeFrame w = .error .badChecksum) :
    accepts (payloadOfFrame w) = false := by
  by_contra hacc
  obtain ⟨hlen, hcsum⟩ : lenOk (payloadOfFrame w) = true ∧ csumOk (payloadOfFrame w) = true :=
    Bool.and_eq_true_iff.1 (eq_true_of_ne_false hacc)
  simp only [lenOk, csumOk, beq_iff_eq] at hlen hcsum
  simp only [decodeFrame, hlen, hcsum, bne_self_eq_false, Bool.false_eq_true, if_false] at h
  split_ifs at h <;> simp at h

/-- The 32 bytes of a 256-bit value are its first two and its payload (R55, R76). -/
theorem bytesOfFrame_eq (w : FrameWord) :
    bytesOfFrame w = frameByte w 0 :: frameByte w 1 :: (payloadOfFrame w).toList := rfl

/-- Running the machine on waiting bytes is delivering them (R51, R60). -/
theorem run_byteInputs (bs : List Byte) (rest : List Input) (s : State) :
    Sys2Proof.core.run bs.length { s with inputs := byteInputs bs ++ rest } =
      deliverAll (byteInputs bs) { s with inputs := rest } := by
  have hwords : (bs.map fun b => encodeEvent (.byte b)).map .ev = byteInputs bs := List.map_map
  have hrun := runOfQueueIsDeliveryInOrder (bs.map fun b => encodeEvent (.byte b)) rest s
  rwa [hwords, List.length_map] at hrun

/-- The step on a waiting 256-bit value that is no valid frame puts its bytes on the stream (R83; log 11). -/
theorem step_invalid_frame {s : State} {w : FrameWord} {rest : List Input} {e : DecodeError}
    (hin : s.inputs = .frame w :: rest) (h : decodeFrame w = .error e) :
    step s = .next { s with inputs := byteInputs (bytesOfFrame w) ++ rest, out := .none } := by
  have hdec : decode (Context.of s.block (.frame w)) (.frame w) = .error e := h
  rw [step_cons hin, deliver_of_decode_error (s := { s with inputs := rest }) hdec]
  simp only [State.undecoded, State.idle_eq, State.offer]

/-- Settles O39: after the step of the value its bytes are the marker and a payload that is rejected. -/
theorem invalidFrameIsDroppedWhole : Obligations.InvalidFrameIsDroppedWhole := by
  intro s w rest h hst hin
  obtain ⟨hm0, hm1⟩ := marker_of_decodeFrame_error h
  have hrej := not_accepts_of_decodeFrame_error h
  obtain ⟨e, he⟩ : ∃ e, decodeFrame w = .error e := h.elim (⟨_, ·⟩) (⟨_, ·⟩)
  let u : State := { s with inputs := rest, out := .none }
  have hbytes : bytesOfFrame w = Config.mark0 :: Config.mark1 :: (payloadOfFrame w).toList := by
    rw [bytesOfFrame_eq, hm0, hm1]
  have hrun : Sys2Proof.core.run 33 s = .next (u.dropped (payloadOfFrame w)) := by
    rw [run_succ_next 32 (step_invalid_frame hin he)]
    refine (run_byteInputs (bytesOfFrame w) rest { s with out := .none }).trans ?_
    rw [hbytes]
    exact deliverAll_rejected_frame (s := u) hrej hst
  refine ⟨_, hrun, rfl, rfl, rfl, ?_, rfl⟩
  simp [State.dropped, u]

end Sys2Proof.Machine
end

section
/-! R100 to R104: the scan for the marker in a stream of bytes. -/

namespace Sys2Proof.Machine

open Claims

theorem scanLength_false_marker {b : Byte} (rest : List Byte) (hb : b ≠ Config.mark1) :
    scanLength (Config.mark0 :: b :: rest) = (scanLength rest).map (· + 2) :=
  if_neg hb

theorem scanLength_miss {a : Byte} (b : Byte) (rest : List Byte) (ha : a ≠ Config.mark0) :
    scanLength (a :: b :: rest) = (scanLength (b :: rest)).map (· + 1) := if_neg ha

/-- A byte that is not the marker's first is gone (R100). -/
theorem deliver_seek_first_miss {b : Byte} {s : State} (hst : s.block.st = .seekFirst) (hb : b ≠ Config.mark0) :
    deliver (.ev (encodeEvent (.byte b))) s = .next { s with out := .none } := by
  rw [deliver_byte]
  simp [selectByte, Context.ofByte, hst, hb, exec, execSeek1Miss, State.commit]

/-- The marker's first byte with a byte behind it that is not the second: both are gone (R101, R103). -/
theorem deliverAll_false_marker {b : Byte} {s : State} (hst : s.block.st = .seekFirst) (hb : b ≠ Config.mark1) :
    deliverAll (byteInputs [Config.mark0, b]) s = .next { s with out := .none } := by
  have hsecond : deliver (.ev (encodeEvent (.byte b))) (s.commit { s.block with st := .seekSecond } .none) =
      .next { s with out := .none } := by
    rw [deliver_byte]
    simp [selectByte, Context.ofByte, hb, exec, execSeek2Miss, State.commit, ← hst]
  exact (deliverAll_cons_next _ (deliver_mark0 hst)).trans (deliverAll_cons_next _ hsecond)

/-- `t` is `s` but for the last output and for what the Frame Synchronizer and the Frame Decoder hold of a frame that
is not complete (R21, R22, R25). -/
def State.SameButFrame (s t : State) : Prop :=
  ∃ st idx buf o, st ≠ .halt ∧ t = { s with block := { s.block with st := st, idx := idx, buf := buf }, out := o }

theorem State.SameButFrame.of_running {s : State} (h : s.block.st ≠ .halt) : s.SameButFrame s :=
  ⟨s.block.st, s.block.idx, s.block.buf, s.out, h, rfl⟩

theorem State.SameButFrame.keeps {s t : State} (h : s.SameButFrame t) :
    t.block.st ≠ .halt ∧ t.outs = s.outs ∧ t.block.sum = s.block.sum ∧ t.block.cnt = s.block.cnt ∧
      t.block.avgEn = s.block.avgEn ∧ t.block.thMode = s.block.thMode := by
  obtain ⟨st, idx, buf, o, hst, rfl⟩ := h
  exact ⟨hst, rfl, rfl, rfl, rfl, rfl⟩

/-- The scan consumes the bytes before the marker that it finds without an effect (R104). -/
theorem deliverAll_before_marker (bs : List Byte) {n : Nat} (h : scanLength bs = some n) (s : State)
    (hst : s.block.st = .seekFirst) :
    ∃ pre o, bs = pre ++ Config.mark0 :: Config.mark1 :: bs.drop n ∧
      deliverAll (byteInputs pre) s = .next { s with out := o } := by
  induction bs using scanLength.induct generalizing n s with
  | case1 => simp [scanLength] at h
  | case2 a => simp [scanLength] at h
  | case3 rest =>
    obtain rfl : 2 = n := Option.some.inj h
    exact ⟨[], s.out, rfl, rfl⟩
  | case4 b rest hb ih =>
    obtain ⟨k, hk, rfl⟩ := Option.map_eq_some_iff.1 ((scanLength_false_marker rest hb).symm.trans h)
    obtain ⟨pre, o, hpre, hdel⟩ := ih hk { s with out := .none } hst
    refine ⟨Config.mark0 :: b :: pre, o, congrArg (Config.mark0 :: b :: ·) hpre, ?_⟩
    exact (deliverAll_append_next _ (byteInputs pre) (deliverAll_false_marker hst hb)).trans hdel
  | case5 a b rest ha ih =>
    obtain ⟨k, hk, rfl⟩ := Option.map_eq_some_iff.1 ((scanLength_miss b rest ha).symm.trans h)
    obtain ⟨pre, o, hpre, hdel⟩ := ih hk { s with out := .none } hst
    refine ⟨a :: pre, o, congrArg (a :: ·) hpre, ?_⟩
    exact (deliverAll_cons_next _ (deliver_seek_first_miss hst ha)).trans hdel

/-- Where the scan finds no marker, nothing but the sequencing state has changed at the end of the stream (R104). -/
theorem deliverAll_without_marker (bs : List Byte) (h : scanLength bs = none) (s : State)
    (hst : s.block.st = .seekFirst) : ∃ t, deliverAll (byteInputs bs) s = .next t ∧ s.SameButFrame t := by
  induction bs using scanLength.induct generalizing s with
  | case1 => exact ⟨s, rfl, .of_running (by simp [hst])⟩
  | case2 a =>
    by_cases ha : a = Config.mark0
    · subst ha
      exact ⟨_, deliverAll_cons_next _ (deliver_mark0 hst), .seekSecond, s.block.idx, s.block.buf, .none, by simp,
        by simp [State.commit]⟩
    · exact ⟨_, deliverAll_cons_next _ (deliver_seek_first_miss hst ha), s.block.st, s.block.idx, s.block.buf, .none,
        by simp [hst], rfl⟩
  | case3 rest => simp [scanLength] at h
  | case4 b rest hb ih =>
    have hrest : scanLength rest = none := Option.map_eq_none_iff.1 ((scanLength_false_marker rest hb).symm.trans h)
    obtain ⟨t, ht, hsame⟩ := ih hrest { s with out := .none } hst
    exact ⟨t, (deliverAll_append_next _ (byteInputs rest) (deliverAll_false_marker hst hb)).trans ht, hsame⟩
  | case5 a b rest ha ih =>
    have hrest : scanLength (b :: rest) = none := Option.map_eq_none_iff.1 ((scanLength_miss b rest ha).symm.trans h)
    obtain ⟨t, ht, hsame⟩ := ih hrest { s with out := .none } hst
    exact ⟨t, (deliverAll_cons_next _ (deliver_seek_first_miss hst ha)).trans ht, hsame⟩

end Sys2Proof.Machine
end

section
/-! R57, R58 and R123: any stream of bytes has the effect of the frames in it, one after another. -/

namespace Sys2Proof.Machine

open Claims

/-- The payload that a stream begins with. -/
def payloadPrefix (bs : List Byte) : Buf := Vector.ofFn fun j => bs.getD j.val 0#8

theorem payloadPrefix_append_drop {bs : List Byte} (h : 30 ≤ bs.length) :
    (payloadPrefix bs).toList ++ bs.drop 30 = bs := by
  have htake : (payloadPrefix bs).toList = bs.take 30 := by
    apply List.ext_getElem
    · simp [h]
    · intro j h1 h2
      have hj : j < bs.length := by simp at h2; omega
      simp [payloadPrefix, hj]
  rw [htake, List.take_append_drop]

theorem payloads_succ_none {fuel : Nat} {bs : List Byte} (h : scanLength bs = none) :
    payloads (fuel + 1) bs = [] := by
  simp [payloads, h]

theorem payloads_succ_short {fuel n : Nat} {bs : List Byte} (h : scanLength bs = some n)
    (hlen : (bs.drop n).length < 30) : payloads (fuel + 1) bs = [] := by
  simp only [payloads, h, hlen, if_true]

theorem payloads_succ_whole {fuel n : Nat} {bs : List Byte} (h : scanLength bs = some n)
    (hlen : 30 ≤ (bs.drop n).length) :
    payloads (fuel + 1) bs = payloadPrefix (bs.drop n) :: payloads fuel ((bs.drop n).drop 30) := by
  simp only [payloads, h, Nat.not_lt.2 hlen, if_false, List.drop_drop]
  rfl

/-- The marker and fewer than 30 bytes: a frame that is not complete. -/
theorem deliverAll_incomplete_frame {bs : List Byte} (hlen : bs.length < 30) {s : State}
    (hst : s.block.st = .seekFirst) :
    ∃ t, deliverAll (byteInputs (Config.mark0 :: Config.mark1 :: bs)) s = .next t ∧ s.SameButFrame t := by
  obtain ⟨q, hq, -⟩ := deliverAll_inFrame s bs (n := 0) (m := ⟨bs.length, hlen⟩) s.block.buf (Nat.zero_add _)
  refine ⟨_, ?_, .collect, ⟨bs.length, hlen⟩, q, .none, by simp, rfl⟩
  exact (deliverAll_append_next _ (byteInputs bs) (deliverAll_marker hst)).trans hq

/-- The last output is not read by a frame's operations, and it is written by each. -/
theorem State.afterFrame_withOut (s : State) (p : Buf) (o : Output) :
    { s with out := o }.afterFrame p = s.afterFrame p := rfl

/-- A stream met in `SEEK_FIRST` has the effect of the payloads in it, in stream order, and what it leaves of a frame
that is not complete. -/
theorem deliverAll_stream (fuel : Nat) (bs : List Byte) (hfuel : bs.length ≤ fuel) (s : State)
    (hst : s.block.st = .seekFirst) :
    ∃ t, deliverAll (byteInputs bs) s = .next t ∧ ((payloads fuel bs).foldl State.afterFrame s).SameButFrame t := by
  induction fuel generalizing bs s with
  | zero =>
    obtain rfl : bs = [] := List.eq_nil_of_length_eq_zero (Nat.le_zero.1 hfuel)
    exact ⟨s, rfl, .of_running (by simp [payloads, hst])⟩
  | succ fuel ih =>
    cases hscan : scanLength bs with
    | none =>
      rw [payloads_succ_none hscan]
      exact deliverAll_without_marker bs hscan s hst
    | some n =>
      obtain ⟨pre, o, hbs, hpre⟩ := deliverAll_before_marker bs hscan s hst
      have hsplit : deliverAll (byteInputs bs) s =
          deliverAll (byteInputs (Config.mark0 :: Config.mark1 :: bs.drop n)) { s with out := o } := by
        conv_lhs => rw [hbs, byteInputs_append]
        exact deliverAll_append_next _ _ hpre
      by_cases hlen : (bs.drop n).length < 30
      · rw [payloads_succ_short hscan hlen, hsplit]
        exact deliverAll_incomplete_frame (s := { s with out := o }) hlen hst
      · have hrest : ((bs.drop n).drop 30).length ≤ fuel := by
          have hlength := congrArg List.length hbs
          simp only [List.length_append, List.length_cons, List.length_drop] at hlength ⊢
          omega
        let p := payloadPrefix (bs.drop n)
        have hwhole : Config.mark0 :: Config.mark1 :: bs.drop n =
            (Config.mark0 :: Config.mark1 :: p.toList) ++ (bs.drop n).drop 30 := by
          rw [List.cons_append, List.cons_append, payloadPrefix_append_drop (Nat.not_lt.1 hlen)]
        obtain ⟨t, ht, hsame⟩ := ih _ hrest (s.afterFrame p) ((s.afterFrame_keeps p).1.trans hst)
        rw [payloads_succ_whole hscan (Nat.not_lt.1 hlen), List.foldl_cons]
        refine ⟨t, ?_, hsame⟩
        rw [hsplit, hwhole, byteInputs_append,
          deliverAll_append_next _ _ (deliverAll_whole_frame p (s := { s with out := o }) hst), s.afterFrame_withOut]
        exact ht

theorem acceptedIn_eq_filter (bs : List Byte) : acceptedIn bs = (payloads bs.length bs).filter accepts := by
  refine List.filter_congr fun p _ => ?_
  rw [Bool.eq_iff_iff, decide_eq_true_iff, accepts_iff]

end Sys2Proof.Machine
end

section
/-! R131 and R199: pass-through mode on any stream of bytes. -/

namespace Sys2Proof.Machine

open Claims

/-- In pass-through mode the frames of a stream add one output for each accepted payload. -/
theorem foldl_afterFrame_outs (ps : List Buf) (s : State) (havg : s.block.avgEn = false) :
    (ps.foldl State.afterFrame s).outs =
      s.outs ++ (ps.filter accepts).map fun p => .emit 1#32 (channelLanes p) s.block.thMode := by
  induction ps generalizing s with
  | nil => simp
  | cons p ps ih =>
    obtain ⟨-, hmode, hth⟩ := s.afterFrame_keeps p
    rw [List.foldl_cons, ih _ (hmode.trans havg), hth]
    cases hp : accepts p with
    | false => simp [State.afterFrame_rejected s hp, State.dropped, hp]
    | true => simp [State.afterFrame_forwarded hp havg, hp]

/-- Settles O43, by the effect of a stream: each accepted payload in it is output, the others leave no trace. -/
theorem passThroughForwardsAcceptedFrames : Obligations.PassThroughForwardsAcceptedFrames := by
  intro bs s hst havg
  obtain ⟨t, ht, hsame⟩ := deliverAll_stream bs.length bs le_rfl s hst
  obtain ⟨-, houts, -⟩ := hsame.keeps
  refine ⟨t, (byteWords_eq_byteInputs bs).symm ▸ ht, ?_⟩
  simp only [houts, foldl_afterFrame_outs _ s havg, acceptedIn_eq_filter, channelLanes_eq_ofFn]

end Sys2Proof.Machine
end

section
/-! R132, R134, R135 and R142: an averaging window over any stream of bytes. -/

namespace Sys2Proof.Machine

open Claims

/-- In averaging mode, with room in the counter and the sums within R30 (a), the frames of a stream add exactly the
accepted payloads to the aggregate and output nothing. -/
theorem foldl_afterFrame_aggregate (ps : List Buf) (s : State) (havg : s.block.avgEn = true)
    (hsum : ∀ i : Fin 12, s.block.sum[i].toNat ≤ 65535 * s.block.cnt.toNat)
    (hroom : s.block.cnt.toNat + (ps.filter accepts).length ≤ 2 ^ 32 - 1) :
    let t := ps.foldl State.afterFrame s
    t.outs = s.outs ∧ t.block.avgEn = true ∧ t.block.thMode = s.block.thMode ∧
      t.block.cnt.toNat = s.block.cnt.toNat + (ps.filter accepts).length ∧
      ∀ i : Fin 12, t.block.sum[i].toNat =
        s.block.sum[i].toNat + ((ps.filter accepts).map fun p => chField p i).sum := by
  induction ps generalizing s with
  | nil => simp [havg]
  | cons p ps ih =>
    rw [List.foldl_cons]
    cases hp : accepts p with
    | false =>
      rw [List.filter_cons_of_neg (by simp [hp])] at hroom ⊢
      rw [State.afterFrame_rejected s hp]
      have hdropped := ih (s.dropped p) havg hsum hroom
      simpa [State.dropped] using hdropped
    | true =>
      rw [List.filter_cons_of_pos hp, List.length_cons] at hroom ⊢
      have hlt : s.block.cnt.toNat < 2 ^ 32 - 1 := by omega
      have hcnt := State.accumulated_cnt_toNat p hlt
      rw [State.afterFrame_accumulated hp havg hlt]
      obtain ⟨houts, havg', hth, hc, hs⟩ := ih (s.accumulated p) havg
        (fun i => State.accumulated_sum_le p i (hsum i) hlt) (by omega)
      refine ⟨houts, havg', hth, ?_, fun i => ?_⟩
      · rw [hc, hcnt]
        omega
      · rw [hs, State.accumulated_sum_toNat p i (hsum i) hlt, channel_toNat, List.map_cons, List.sum_cons]
        omega

/-- A deadline in an averaging run with no frame collected (R135). -/
theorem deliver_flush_empty {s : State} (hst : s.block.st ≠ .halt) (havg : s.block.avgEn = true)
    (hcnt : s.block.cnt.toNat = 0) :
    deliver (.ev (encodeEvent .flush)) s = .next (s.commit (s.block.takeDeadline.raise .emptyWindow) .empty) := by
  have hzero : cntZero s.block.cnt = true := beq_iff_eq.2 (BitVec.eq_of_toNat_eq hcnt)
  rw [deliver_flush]
  simp [selectFlush, Context.of, Context.ofByte, hst, havg, hzero, exec, execFlushEmpty]

/-- A deadline in an averaging run with frames collected (R134). -/
theorem deliver_flush_ok {s : State} (hst : s.block.st ≠ .halt) (havg : s.block.avgEn = true)
    (hcnt : s.block.cnt.toNat ≠ 0) :
    deliver (.ev (encodeEvent .flush)) s =
      .next (s.commit { s.block.takeDeadline with status := .doneOk }
        (.emit s.block.cnt s.block.sum s.block.thMode)) := by
  have hzero : cntZero s.block.cnt = false := beq_false_of_ne fun h => hcnt (congrArg BitVec.toNat h)
  rw [deliver_flush]
  simp [selectFlush, Context.of, Context.ofByte, hst, havg, hzero, exec, execFlushOk]

/-- The state that `RESET(1, th)` starts an averaging window in (R150). -/
def State.windowStart (s : State) (th : Bool) : State :=
  s.drawn.commit { Block.reset with buf := s.freeBuf, avgEn := true, thMode := th } .none

theorem deliver_reset_window (s : State) (th : Bool) :
    deliver (.ev (encodeEvent (.reset true th))) s = .next (s.windowStart th) := deliver_reset true th s

@[simp] theorem State.windowStart_outs (s : State) (th : Bool) : (s.windowStart th).outs = s.outs :=
  List.append_nil s.outs

@[simp] theorem State.windowStart_cnt_toNat (s : State) (th : Bool) : (s.windowStart th).block.cnt.toNat = 0 := rfl

@[simp] theorem State.windowStart_sum_toNat (s : State) (th : Bool) (i : Nat) (h : i < 12) :
    (s.windowStart th).block.sum[i].toNat = 0 :=
  congrArg BitVec.toNat (vec12_getElem (fun _ => 0#48) i h)

/-- The aggregate at the end of the bytes of a window (R132). -/
theorem deliverAll_window_bytes (bs : List Byte) (s : State) (th : Bool)
    (hroom : (acceptedIn bs).length ≤ 2 ^ 32 - 1) :
    ∃ t, deliverAll (.ev (encodeEvent (.reset true th)) :: byteWords bs) s = .next t ∧
      t.outs = s.outs ∧ t.block.st ≠ .halt ∧ t.block.avgEn = true ∧ t.block.thMode = th ∧
      t.block.cnt.toNat = (acceptedIn bs).length ∧
      ∀ i : Fin 12, t.block.sum[i].toNat = ((acceptedIn bs).map fun p => chField p i).sum := by
  obtain ⟨t, ht, hsame⟩ := deliverAll_stream bs.length bs le_rfl (s.windowStart th) rfl
  obtain ⟨hrun, houts, hsum, hcnt, havg, hth⟩ := hsame.keeps
  rw [acceptedIn_eq_filter] at hroom ⊢
  obtain ⟨houts', havg', hth', hcnt', hsum'⟩ := foldl_afterFrame_aggregate (payloads bs.length bs) (s.windowStart th)
    rfl (fun i => by simp) (by simpa using hroom)
  refine ⟨t, ?_, houts.trans (houts'.trans (s.windowStart_outs th)), hrun, havg.trans havg', hth.trans hth', ?_,
    fun i => ?_⟩
  · rw [deliverAll_cons_next _ (deliver_reset_window s th), byteWords_eq_byteInputs, ht]
  · rw [hcnt, hcnt', s.windowStart_cnt_toNat, Nat.zero_add]
  · rw [hsum, hsum']
    simp

/-- Settles O44: `RESET` starts from an aggregate of nothing, the stream adds its accepted payloads, and the deadline
gives out the aggregate. -/
theorem windowCoversAcceptedFrames : Obligations.WindowCoversAcceptedFrames := by
  intro bs s th hroom
  obtain ⟨t, ht, houts, hrun, havg, rfl, hcnt, hsum⟩ := deliverAll_window_bytes bs s th hroom
  rw [deliverAll_append_next _ _ ht, deliverAll_singleton]
  by_cases hnone : acceptedIn bs = []
  · have hzero : t.block.cnt.toNat = 0 := by rw [hcnt, hnone, List.length_nil]
    refine ⟨_, deliver_flush_empty hrun havg hzero, fun _ => ⟨?_, rfl⟩, fun h => absurd hnone h⟩
    simp [houts]
  · have hpos : t.block.cnt.toNat ≠ 0 := by rwa [hcnt, ne_eq, List.length_eq_zero_iff]
    refine ⟨_, deliver_flush_ok hrun havg hpos, fun h => absurd h hnone, fun _ => ?_⟩
    exact ⟨t.block.cnt, t.block.sum, by simp [houts], rfl, hcnt, hsum⟩

end Sys2Proof.Machine
end

section
/-! R76 and R77: the words of a 256-bit value at their bit places, and when the value is a `FRAME`; R79: the words of
the buffer as numbers. -/

namespace Sys2Proof.Machine

open Claims

/-- Two neighbouring bytes of a 256-bit value are one word of it (R53, R76). -/
theorem be16_frameByte (w : FrameWord) {f : Nat} (h : f ≤ 30) :
    be16 (frameByte w f) (frameByte w (f + 1)) = w.extractLsb' (240 - 8 * f) 16 := by
  have hlow : 248 - 8 * (f + 1) = 240 - 8 * f := by omega
  have hhigh : 248 - 8 * f = 240 - 8 * f + 8 := by omega
  rw [be16, frameByte, frameByte, hlow, hhigh, BitVec.extractLsb'_append_extractLsb'_eq_extractLsb' rfl]

/-- Word `k` of the payload at its bit place (R76). -/
theorem wordAt_payloadOfFrame (w : FrameWord) (k : Fin 15) :
    wordAt (payloadOfFrame w) k = w.extractLsb' (224 - 16 * k.val) 16 := by
  have hplace : 240 - 8 * (2 * k.val + 2) = 224 - 16 * k.val := by omega
  rw [wordAt, payloadOfFrame_get, payloadOfFrame_get, be16_frameByte w (by omega), hplace]

/-- The twelve channels of the payload at their bit places (R76). -/
theorem channels_payloadOfFrame (w : FrameWord) :
    vec12 (channel (payloadOfFrame w)) = Vector.ofFn fun i => w.extractLsb' (208 - 16 * i.val) 16 := by
  ext1 i hi
  have hplace : 224 - 16 * (i + 1) = 208 - 16 * i := by omega
  rw [vec12_getElem, Vector.getElem_ofFn, channel, wordAt_payloadOfFrame, hplace]

/-- The stored checksum is the low word of the value (R76). -/
theorem csumField_payloadOfFrame (w : FrameWord) : csumField (payloadOfFrame w) = w.toNat % 65536 := by
  have hword : (wordAt (payloadOfFrame w) 14).toNat = csumField (payloadOfFrame w) := wordAt_toNat _ 14
  rw [← hword, wordAt_payloadOfFrame, BitVec.extractLsb'_toNat]
  rfl

/-- The upper 32 bits are `0x424D001C` when the first word is the marker and the second the right length (R77). -/
theorem upper_bits_iff (w : FrameWord) :
    w.toNat / 2 ^ 224 = 0x424D001C ↔
      be16 (frameByte w 0) (frameByte w 1) = be16 Config.mark0 Config.mark1 ∧ lenOk (payloadOfFrame w) = true := by
  have hmark : (be16 (frameByte w 0) (frameByte w 1)).toNat = w.toNat / 2 ^ 224 / 65536 % 65536 := by
    rw [be16_frameByte w (Nat.zero_le 30), BitVec.extractLsb'_toNat, Nat.shiftRight_eq_div_pow, Nat.div_div_eq_div_mul]
    rfl
  have hlen : (wordAt (payloadOfFrame w) 0).toNat = w.toNat / 2 ^ 224 % 65536 := by
    rw [wordAt_payloadOfFrame, BitVec.extractLsb'_toNat, Nat.shiftRight_eq_div_pow]
    rfl
  have hbound : w.toNat / 2 ^ 224 < 2 ^ 32 := Nat.div_lt_of_lt_mul w.isLt
  have hmarkConst : (be16 Config.mark0 Config.mark1).toNat = 0x424D := by decide
  have hlenConst : Config.lenConst.toNat = 28 := by decide
  rw [lenOk, beq_iff_eq, BitVec.toNat_eq, BitVec.toNat_eq, hmark, hlen, hmarkConst, hlenConst]
  generalize w.toNat / 2 ^ 224 = upper at hbound ⊢
  omega

/-- After the marker the first 30 frame bytes add up to the checksum sum of the payload (R77, R114). -/
theorem sum_frameByte (w : FrameWord) (h0 : frameByte w 0 = Config.mark0) (h1 : frameByte w 1 = Config.mark1) :
    ∑ f : Fin 30, (frameByte w f.val).toNat = byteSum (payloadOfFrame w) := by
  have hmark0 : Config.mark0.toNat = 0x42 := rfl
  have hmark1 : Config.mark1.toNat = 0x4D := rfl
  rw [Fin.sum_univ_eq_sum_range (fun f => (frameByte w f).toNat)]
  simp only [Finset.sum_range_succ, Finset.sum_range_zero, Nat.zero_add, h0, h1, hmark0, hmark1, byteSum,
    payloadOfFrame_get, Nat.reduceAdd]

/-- The two bytes of the marker's word are the marker (R53). -/
theorem marker_bytes {w : FrameWord}
    (h : be16 (frameByte w 0) (frameByte w 1) = be16 Config.mark0 Config.mark1) :
    frameByte w 0 = Config.mark0 ∧ frameByte w 1 = Config.mark1 :=
  ⟨by simpa using congrArg hiByte h, by simpa using congrArg loByte h⟩

/-- R77's pattern and checksum condition are the marker and a payload that both checks accept (R113, R115). -/
theorem validFrame_iff (w : FrameWord) :
    (w.toNat / 2 ^ 224 = 0x424D001C ∧ (∑ f : Fin 30, (frameByte w f.val).toNat) % 65536 = w.toNat % 65536) ↔
      be16 (frameByte w 0) (frameByte w 1) = be16 Config.mark0 Config.mark1 ∧
        accepts (payloadOfFrame w) = true := by
  rw [upper_bits_iff, and_assoc, accepts, Bool.and_eq_true]
  refine and_congr_right fun hmark => and_congr_right fun _ => ?_
  obtain ⟨h0, h1⟩ := marker_bytes hmark
  rw [sum_frameByte w h0 h1, csumOk_iff, csumField_payloadOfFrame]

/-- The marker and an accepted payload decode to `FRAME` with the payload's words as fields (R77). -/
theorem decodeFrame_accepted {w : FrameWord}
    (hmark : be16 (frameByte w 0) (frameByte w 1) = be16 Config.mark0 Config.mark1)
    (hacc : accepts (payloadOfFrame w) = true) :
    decodeFrame w = .ok (.frame (vec12 (channel (payloadOfFrame w))) (wordAt (payloadOfFrame w) 13)
      (wordAt (payloadOfFrame w) 14)) := by
  obtain ⟨hlen, hcsum⟩ : lenOk (payloadOfFrame w) = true ∧ csumOk (payloadOfFrame w) = true :=
    Bool.and_eq_true_iff.1 hacc
  simp only [lenOk, csumOk, beq_iff_eq] at hlen hcsum
  simp [decodeFrame, hmark, hlen, hcsum]

/-- A value that decodes has the marker and an accepted payload (R77). -/
theorem accepted_of_decodeFrame_ok {w : FrameWord} {i : Instr} (h : decodeFrame w = .ok i) :
    be16 (frameByte w 0) (frameByte w 1) = be16 Config.mark0 Config.mark1 ∧
      accepts (payloadOfFrame w) = true := by
  simp only [decodeFrame] at h
  split_ifs at h with hmark hlen hcsum
  exact ⟨by simpa using hmark, by simpa [accepts, lenOk, csumOk] using And.intro hlen hcsum⟩

/-- Settles O2: the two conditions are the decoder's own tests, and the words it reads stand at R76's places. -/
theorem frameWordIsValidFrame : Obligations.FrameWordIsValidFrame := by
  intro w
  refine ⟨fun hvalid => ?_, fun hinvalid => ?_⟩
  · obtain ⟨hmark, hacc⟩ := (validFrame_iff w).1 hvalid
    rw [decodeFrame_accepted hmark hacc, channels_payloadOfFrame, wordAt_payloadOfFrame, wordAt_payloadOfFrame]
    rfl
  · cases hdec : decodeFrame w with
    | ok i => exact absurd ((validFrame_iff w).2 (accepted_of_decodeFrame_ok hdec)) hinvalid
    | error e => exact ⟨e, rfl⟩

/-- Settles O23: a word of the buffer is its two bytes, the first one high (R79). -/
theorem wordsAreBigEndian : Obligations.WordsAreBigEndian := fun p k => wordAt_toNat p k

end Sys2Proof.Machine
end

section
/-! R100 to R103: the four Frame Synchronizer operations, each selected by a byte and `st` alone. -/

namespace Sys2Proof.Machine

open Claims

theorem decode_byte {w : EvWord} {b : Byte} (c : Context) (h : decodeEvent w = .ok (.byte b)) :
    decode c (.ev w) = .ok (selectByte c b) := by
  simp [decode, h, select]

/-- Row 6 of R85. -/
theorem selectByte_seekFirst_hit {c : Context} (hst : c.st = .seekFirst) :
    selectByte c Config.mark0 = .seek1Hit := by
  simp [selectByte, hst]

/-- Row 7 of R85. -/
theorem selectByte_seekFirst_miss {c : Context} {b : Byte} (hst : c.st = .seekFirst) (hb : b ≠ Config.mark0) :
    selectByte c b = .seek1Miss b := by
  simp [selectByte, hst, hb]

/-- Row 8 of R85. -/
theorem selectByte_seekSecond_hit {c : Context} (hst : c.st = .seekSecond) :
    selectByte c Config.mark1 = .seek2Hit := by
  simp [selectByte, hst]

/-- Row 9 of R85, for `MARK0` as for any other byte. -/
theorem selectByte_seekSecond_miss {c : Context} {b : Byte} (hst : c.st = .seekSecond) (hb : b ≠ Config.mark1) :
    selectByte c b = .seek2Miss b := by
  simp [selectByte, hst, hb]

/-- Ending a step without an output changes nothing outside the block but the last output (R8). -/
theorem silent_commit_none (s : State) (r : Block) : Silent s (s.commit r .none) :=
  ⟨rfl, rfl, List.append_nil s.outs, rfl⟩

/-- `SEEK1.HIT` is the only operation that writes `SEEK_SECOND` into `st` (R101). -/
theorem eq_seek1Hit_of_exec_enters_seekSecond {i : Instr} {s t : State} (h : exec i s = .next t)
    (hs : s.block.st ≠ .seekSecond) (ht : t.block.st = .seekSecond) : i = .seek1Hit := by
  cases i with
  | seek1Hit => rfl
  | ignHalt _ | ignFlush | seek1Miss _ | collect _ | frame _ _ _ =>
    have hkept : t.block.st = s.block.st := by cases h; rfl
    exact absurd (hkept.symm.trans ht) hs
  | flushEmpty | flushOk =>
    have hhalt : t.block.st = .halt := by cases h; rfl
    cases hhalt.symm.trans ht
  | seek2Hit =>
    have hcollect : t.block.st = .collect := by cases h; rfl
    cases hcollect.symm.trans ht
  | reset _ _ | seek2Miss _ | lastRejlen _ | lastRejcsum _ | lastForward _ | lastAccum _ | lastOvf _ =>
    have hfirst : t.block.st = .seekFirst := by cases h; rfl
    cases hfirst.symm.trans ht

/-- Settles O12, by row 7 of R85 and the operation's pseudocode. -/
theorem seekFirstMissDiscardsByte : Obligations.SeekFirstMissDiscardsByte := by
  intro s w b hw hst hb
  have hsel := selectByte_seekFirst_miss (c := Context.of s.block (.ev w)) hst hb
  exact ⟨hsel ▸ decode_byte _ hw, _, rfl, rfl, silent_commit_none s _⟩

/-- Settles O13: row 6 of R85 and the pseudocode, then the case split over what else a delivery can perform. -/
theorem seekFirstHitRemembersMarker : Obligations.SeekFirstHitRemembersMarker := by
  refine ⟨fun s w hw hst => ?_, fun s t x h hs ht => ?_⟩
  · have hsel := selectByte_seekFirst_hit (c := Context.of s.block (.ev w)) hst
    exact ⟨hsel ▸ decode_byte _ hw, _, rfl, rfl, silent_commit_none s _⟩
  · obtain ⟨i, hdec, hexec⟩ | rfl := deliver_next_cases h
    · exact eq_seek1Hit_of_exec_enters_seekSecond hexec hs ht ▸ hdec
    · exact absurd ((congrArg Block.st (s.undecoded_block x)).symm.trans ht) hs

/-- Settles O14, by row 8 of R85 and the operation's pseudocode. -/
theorem seekSecondHitStartsPayload : Obligations.SeekSecondHitStartsPayload := by
  intro s w hw hst
  have hsel := selectByte_seekSecond_hit (c := Context.of s.block (.ev w)) hst
  exact ⟨hsel ▸ decode_byte _ hw, _, rfl, rfl, silent_commit_none s _⟩

/-- Settles O15: row 9 of R85 and the pseudocode; in both streams the first two bytes are a false marker, so that the
rest of them is met in `SEEK_FIRST`. -/
theorem seekSecondMissDiscardsBoth : Obligations.SeekSecondMissDiscardsBoth := by
  refine ⟨fun s w b hw hst hb => ?_, fun s hst => ?_⟩
  · have hsel := selectByte_seekSecond_miss (c := Context.of s.block (.ev w)) hst hb
    exact ⟨hsel ▸ decode_byte _ hw, _, rfl, rfl, silent_commit_none s _⟩
  · have hmark0 : (0x42#8 : Byte) ≠ Config.mark1 := by decide
    have hmark1 : (0x4D#8 : Byte) ≠ Config.mark0 := by decide
    have hzero : (0x00#8 : Byte) ≠ Config.mark1 := by decide
    simp only [byteWords_eq_byteInputs]
    refine ⟨⟨{ s with out := .none }, ?_, rfl⟩, ⟨s.inFrame 0 s.block.buf, ?_, rfl⟩⟩
    · calc deliverAll (byteInputs [0x42#8, 0x42#8, 0x4D#8]) s
          = deliverAll (byteInputs [0x4D#8]) { s with out := .none } :=
            deliverAll_append_next _ (byteInputs [0x4D#8]) (deliverAll_false_marker hst hmark0)
        _ = deliver (.ev (encodeEvent (.byte 0x4D#8))) { s with out := .none } := deliverAll_singleton _ _
        _ = .next { s with out := .none } := deliver_seek_first_miss (s := { s with out := .none }) hst hmark1
    · calc deliverAll (byteInputs [0x42#8, 0x00#8, 0x42#8, 0x4D#8]) s
          = deliverAll (byteInputs [0x42#8, 0x4D#8]) { s with out := .none } :=
            deliverAll_append_next _ (byteInputs [0x42#8, 0x4D#8]) (deliverAll_false_marker hst hzero)
        _ = .next (s.inFrame 0 s.block.buf) := deliverAll_marker (s := { s with out := .none }) hst

end Sys2Proof.Machine
end

section
/-! R110 to R115, R121 and R122: the Frame Decoder's operations and its two checks. The context of a byte's event word
is the one of the byte, so that the two checks are over the buffer with the byte in place 29 (R111). -/

namespace Sys2Proof.Machine

open Claims

/-- An event word that decodes to a byte carries it as its data (R78). -/
theorem data_of_decodeEvent_byte {w : EvWord} {b : Byte} (h : decodeEvent w = .ok (.byte b)) :
    Input.data (.ev w) = b := by
  unfold decodeEvent at h
  split at h <;> cases h
  rfl

/-- What a byte's event word is in the state `r`: the operation that the byte selects there (R85). -/
theorem decode_byte_of_block {w : EvWord} {b : Byte} (r : Block) (h : decodeEvent w = .ok (.byte b)) :
    decode (Context.of r (.ev w)) (.ev w) = .ok (selectByte (Context.ofByte r b) b) := by
  rw [decode_byte _ h, Context.of, data_of_decodeEvent_byte h]

/-- Row 10 of R85. -/
theorem selectByte_collect {r : Block} (hst : r.st = .collect) (hidx : r.idx.val < 29) (b : Byte) :
    selectByte (Context.ofByte r b) b = .collect b := by
  have hlast : r.idx.val ≠ 29 := Nat.ne_of_lt hidx
  simp [selectByte, Context.ofByte, hst, hlast]

/-- Rows 11 to 15 of R85: the last payload byte's step. -/
theorem selectByte_last {r : Block} (hst : r.st = .collect) (hidx : r.idx.val = 29) (b : Byte) :
    selectByte (Context.ofByte r b) b = selectLast (Context.ofByte r b) b := by
  simp [selectByte, Context.ofByte, hst, hidx]

/-- Row 11 of R85: the length comes first (R117). -/
theorem selectLast_bad_length {c : Context} (hlen : c.lenOk = false) (b : Byte) :
    selectLast c b = .lastRejlen b := by
  simp [selectLast, hlen]

/-- Row 12 of R85. -/
theorem selectLast_bad_checksum {c : Context} (hlen : c.lenOk = true) (hcsum : c.csumOk = false) (b : Byte) :
    selectLast c b = .lastRejcsum b := by
  simp [selectLast, hlen, hcsum]

/-- The stored checksum with its low byte just received (R111, R115). -/
theorem csumField_set_last (p : Buf) (b : Byte) : csumField (p.set 29 b) = p[28].toNat * 256 + b.toNat := by
  simp [csumField]

/-- The two bytes of the declared length are the two digits of 28 in base 256 (R113). -/
theorem lenField_eq_28_iff (p : Buf) : lenField p = 28 ↔ p[0] = 0x00#8 ∧ p[1] = 0x1C#8 := by
  have hhi := p[0].isLt
  have hlo := p[1].isLt
  simp only [lenField, BitVec.toNat_eq, BitVec.toNat_ofNat]
  omega

/-- Settles O21: the model's sum is the byte sum, and both sides of its check are read as numbers. -/
theorem checksumIsByteSum : Obligations.ChecksumIsByteSum := by
  refine fun p => ⟨?_, csumOk_iff p⟩
  rw [csumCalc, csumSum_eq_byteSum, BitVec.toNat_ofNat]

/-- Settles O17, by row 10 of R85 and the operation's pseudocode. -/
theorem collectStoresByte : Obligations.CollectStoresByte := by
  intro s w b hw hst hidx
  have hsel := selectByte_collect hst hidx b
  exact ⟨hsel ▸ decode_byte_of_block _ hw, _, rfl, nextIdx_val hidx, rfl, silent_commit_none s _⟩

/-- Settles O18, by row 11 of R85 and the operation's pseudocode. -/
theorem lastByteBadLengthRejects : Obligations.LastByteBadLengthRejects := by
  intro s w b hw hst hidx hlen
  have hbad : (Context.ofByte s.block b).lenOk = false := Bool.eq_false_iff.2 (mt (lenOk_iff _).1 hlen)
  have hsel := (selectByte_last hst hidx b).trans (selectLast_bad_length hbad b)
  exact ⟨hsel ▸ decode_byte_of_block _ hw, _, rfl, rfl, silent_commit_none s _⟩

/-- Settles O19, by row 12 of R85 and the operation's pseudocode. -/
theorem lastByteBadChecksumRejects : Obligations.LastByteBadChecksumRejects := by
  intro s w b hw hst hidx hlen hcsum
  have hgood : (Context.ofByte s.block b).lenOk = true := (lenOk_iff _).2 hlen
  rw [← csumField_set_last] at hcsum
  have hbad : (Context.ofByte s.block b).csumOk = false := Bool.eq_false_iff.2 (mt (csumOk_iff _).1 hcsum)
  have hsel := (selectByte_last hst hidx b).trans (selectLast_bad_checksum hgood hbad b)
  exact ⟨hsel ▸ decode_byte_of_block _ hw, _, rfl, rfl, silent_commit_none s _⟩

/-- Settles O20: the check as a number, then the number's two bytes. -/
theorem lengthCheckOnTwoBytes : Obligations.LengthCheckOnTwoBytes :=
  fun p => ⟨lenOk_iff p, (lenOk_iff p).trans (lenField_eq_28_iff p)⟩

end Sys2Proof.Machine
end

section
/-! R120 and R131 to R135: the Aggregator's operations, each selected by its row of R85. -/

namespace Sys2Proof.Machine

open Claims

/-- Ending a step with an output changes nothing else outside the block (R8). -/
theorem says_commit (s : State) (r : Block) {o : Output} (ho : o ≠ .none) : Says o s (s.commit r o) := by
  cases o with
  | none => exact absurd rfl ho
  | emit n v th => exact ⟨rfl, rfl, rfl, rfl⟩
  | empty => exact ⟨rfl, rfl, rfl, rfl⟩

/-- Rows 13 to 15 of R85: a payload that passes both checks is handed over to the Aggregator (R120). -/
theorem selectLast_accepted {c : Context} (hlen : c.lenOk = true) (hcsum : c.csumOk = true) (b : Byte) :
    selectLast c b =
      if c.avgEn = false then .lastForward b else if c.cntFull = true then .lastOvf b else .lastAccum b := by
  simp [selectLast, hlen, hcsum]

/-- What a last payload byte with which both checks pass is, by the mode and the counter (R120). -/
theorem decode_last_accepted {r : Block} {w : EvWord} {b : Byte} (hw : decodeEvent w = .ok (.byte b))
    (hst : r.st = .collect) (hidx : r.idx.val = 29) (hlen : lenField (r.buf.set 29 b) = 28)
    (hcsum : byteSum (r.buf.set 29 b) % 65536 = r.buf[28].toNat * 256 + b.toNat) :
    decode (Context.of r (.ev w)) (.ev w) =
      .ok (if r.avgEn = false then .lastForward b
        else if cntFull r.cnt = true then .lastOvf b else .lastAccum b) := by
  have hlenOk : (Context.ofByte r b).lenOk = true := (lenOk_iff _).2 hlen
  rw [← csumField_set_last] at hcsum
  have hcsumOk : (Context.ofByte r b).csumOk = true := (csumOk_iff _).2 hcsum
  rw [decode_byte_of_block r hw, selectByte_last hst hidx, selectLast_accepted hlenOk hcsumOk]
  rfl

/-- The counter is full at its maximum and nowhere else (R6). -/
theorem cntFull_of_toNat_eq {cnt : CntWord} (h : cnt.toNat = 2 ^ 32 - 1) : cntFull cnt = true :=
  eq_true_of_ne_false fun hroom => by
    have hlt := (cntFull_eq_false_iff cnt).1 hroom
    omega

theorem widen_channel (p : Buf) (i : Fin 12) : widen (channel p i) = BitVec.ofNat 48 (chField p i) := by
  rw [← channel_toNat]
  exact BitVec.eq_of_toNat_eq (by simp [widen])

theorem channelLanes_toNat (p : Buf) (i : Fin 12) : (channelLanes p)[i].toNat = chField p i := by
  have hlane : (channelLanes p)[i] = widen (channel p i) := channelLanes_getElem p i i.isLt
  rw [hlane, widen_toNat, channel_toNat]

theorem decode_flush {w : EvWord} (c : Context) (h : decodeEvent w = .ok .flush) :
    decode c (.ev w) = .ok (selectFlush c) := by
  simp [decode, h, select]

/-- Row 2 of R85, for a deadline. -/
theorem selectFlush_halt {c : Context} (hst : c.st = .halt) : selectFlush c = .ignHalt .flush := by
  simp [selectFlush, hst]

/-- Row 3 of R85. -/
theorem selectFlush_passThrough {c : Context} (hst : c.st ≠ .halt) (havg : c.avgEn = false) :
    selectFlush c = .ignFlush := by
  simp [selectFlush, hst, havg]

/-- Rows 4 and 5 of R85. -/
theorem selectFlush_averaging {c : Context} (hst : c.st ≠ .halt) (havg : c.avgEn = true) :
    selectFlush c = if c.cntZero = true then .flushEmpty else .flushOk := by
  simp [selectFlush, hst, havg]

theorem cntZero_iff (cnt : CntWord) : cntZero cnt = true ↔ cnt.toNat = 0 := by
  rw [cntZero, beq_iff_eq, BitVec.toNat_eq, BitVec.toNat_ofNat, Nat.zero_mod]

/-- Settles O27, by row 13 of R85 and the operation's pseudocode. -/
theorem acceptedFrameIsForwarded : Obligations.AcceptedFrameIsForwarded := by
  intro s w b hw hst hidx hlen hcsum havg
  have hdec := decode_last_accepted hw hst hidx hlen hcsum
  rw [if_pos havg] at hdec
  exact ⟨hdec, _, channelLanes (s.block.lastBuf b), rfl, channelLanes_toNat _, rfl, says_commit s _ (by simp)⟩

/-- Settles O28, by row 14 of R85 and the operation's pseudocode; the room left in the counter keeps every lane from
wrapping round. -/
theorem acceptedFrameIsAccumulated : Obligations.AcceptedFrameIsAccumulated := by
  intro s w b hw hst hidx hlen hcsum havg hroom
  have hdec := decode_last_accepted hw hst hidx hlen hcsum
  have hfull : ¬ cntFull s.block.cnt = true := by simp [(cntFull_eq_false_iff _).2 hroom]
  rw [if_neg (by simp [havg]), if_neg hfull] at hdec
  refine ⟨hdec, _, rfl, fun i => ?_, ?_, cnt_add_one_toNat hroom, rfl, silent_commit_none s _⟩
  · rw [← widen_channel]
    exact addLanes_getElem s.block.sum (s.block.lastBuf b) i i.isLt
  · rintro ⟨-, hsum, -, -⟩ i
    rw [← channel_toNat]
    exact addLanes_toNat (s.block.lastBuf b) i (hsum i) hroom

/-- Settles O29, by row 15 of R85 and the operation's pseudocode. -/
theorem fullCounterLeavesFrameOut : Obligations.FullCounterLeavesFrameOut := by
  intro s w b hw hst hidx hlen hcsum havg hcnt
  have hdec := decode_last_accepted hw hst hidx hlen hcsum
  rw [if_neg (by simp [havg]), if_pos (cntFull_of_toNat_eq hcnt)] at hdec
  exact ⟨hdec, _, rfl, rfl, silent_commit_none s _⟩

/-- Settles O30, by row 5 of R85 and the operation's pseudocode. -/
theorem deadlineEmitsSums : Obligations.DeadlineEmitsSums := by
  intro s w hw hst havg hcnt
  have hzero : ¬ cntZero s.block.cnt = true := mt (cntZero_iff _).1 (Nat.ne_of_gt hcnt)
  have hsel := (selectFlush_averaging (c := Context.of s.block (.ev w)) hst havg).trans (if_neg hzero)
  exact ⟨hsel ▸ decode_flush _ hw, _, rfl, rfl, says_commit s _ (by simp)⟩

/-- Settles O31, by row 4 of R85 and the operation's pseudocode. -/
theorem deadlineWithoutFramesIsEmpty : Obligations.DeadlineWithoutFramesIsEmpty := by
  intro s w hw hst havg hcnt
  have hsel := (selectFlush_averaging (c := Context.of s.block (.ev w)) hst havg).trans
    (if_pos ((cntZero_iff _).2 hcnt))
  exact ⟨hsel ▸ decode_flush _ hw, _, rfl, rfl, says_commit s _ (by simp)⟩

end Sys2Proof.Machine
end

section
/-! R143: pass-through mode and averaging mode share no data path. -/

namespace Sys2Proof.Machine

open Claims

/-- The rows of R85 for pass-through mode hold no operation but `RESET` that writes the aggregate. -/
theorem exec_keeps_aggregate_of_passThrough {c : Context} {i : Instr} {s t : State} (hsel : selects c i = true)
    (havg : c.avgEn = false) (hi : ∀ a th, i ≠ .reset a th) (h : exec i s = .next t) :
    t.block.sum = s.block.sum ∧ t.block.cnt = s.block.cnt ∧ t.block.ovf = s.block.ovf := by
  cases i with
  | reset a th => exact absurd rfl (hi a th)
  | lastAccum b | lastOvf b => simp [selects, havg] at hsel
  | _ => cases h; exact ⟨rfl, rfl, rfl⟩

theorem deliver_keeps_aggregate_of_passThrough {x : Input} {s t : State} (havg : s.block.avgEn = false)
    (hx : ¬ isReset x) (h : deliver x s = .next t) :
    t.block.sum = s.block.sum ∧ t.block.cnt = s.block.cnt ∧ t.block.ovf = s.block.ovf := by
  obtain ⟨i, hsel, hi, hexec⟩ | hblock := deliver_next_cases_of_not_reset hx h
  · exact exec_keeps_aggregate_of_passThrough hsel havg hi hexec
  · rw [hblock]
    exact ⟨rfl, rfl, rfl⟩

/-- R30 (b) after a delivery: `RESET` clears the aggregate, and without one the mode and the aggregate stay. -/
theorem deliver_aggregate_zero_of_passThrough {x : Input} {s t : State} (hinv : s.block.Inv)
    (h : deliver x s = .next t) (havg : t.block.avgEn = false) :
    t.block.cnt = 0#32 ∧ (∀ i : Fin 12, t.block.sum[i] = 0#48) ∧ t.block.ovf = false := by
  by_cases hx : isReset x
  · obtain ⟨w, a, th, rfl, hw⟩ := hx
    rw [deliver_of_decode_ok (decode_reset_of_decodeEvent _ hw)] at h
    cases h
    exact ⟨rfl, fun i => vec12_getElem (fun _ => 0#48) i i.isLt, rfl⟩
  · obtain ⟨hmode, -⟩ := (onlyResetLoadsModes s t x h).1 hx
    have havg' : s.block.avgEn = false := hmode.symm.trans havg
    obtain ⟨hsum, hcnt, hovf⟩ := deliver_keeps_aggregate_of_passThrough havg' hx h
    obtain ⟨-, -, hzero, -⟩ := hinv
    rw [hsum, hcnt, hovf]
    exact hzero havg'

/-- A deadline in pass-through mode is ignored, in `HALT` as out of it (R151, R152). -/
theorem exec_selectFlush_passThrough {c : Context} (havg : c.avgEn = false) (s : State) :
    exec (selectFlush c) s = .next (s.commit s.block .none) := by
  by_cases hst : c.st = .halt
  · rw [selectFlush_halt hst]
    rfl
  · rw [selectFlush_passThrough hst havg]
    rfl

/-- Three operations give an output (R131, R134, R135). -/
theorem exec_output_cases {i : Instr} {s t : State} (h : exec i s = .next t) :
    (t.out = .none ∧ t.outs = s.outs) ∨ i = .flushEmpty ∨ i = .flushOk ∨ ∃ b, i = .lastForward b := by
  cases i with
  | flushEmpty => exact .inr (.inl rfl)
  | flushOk => exact .inr (.inr (.inl rfl))
  | lastForward b => exact .inr (.inr (.inr ⟨b, rfl⟩))
  | _ => cases h; exact .inl ⟨rfl, List.append_nil s.outs⟩

/-- A byte's word is not the deadline's, and `LAST.FORWARD` is not selected in averaging mode. -/
theorem exec_select_byte_averaging {c : Context} {b : Byte} {s t : State} (havg : c.avgEn = true)
    (h : exec (select c (.byte b)) s = .next t) : t.out = .none ∧ t.outs = s.outs := by
  have hword := encode_select c (.byte b)
  have hsel := selects_select c (.byte b)
  obtain hnone | hi | hi | ⟨b', hi⟩ := exec_output_cases h
  · exact hnone
  · rw [hi] at hword
    cases encodeEvent_injective (Input.ev.inj hword)
  · rw [hi] at hword
    cases encodeEvent_injective (Input.ev.inj hword)
  · rw [hi] at hsel
    simp [selects, havg] at hsel

/-- Settles O32: the operations that write the aggregate are selected in averaging mode, `LAST.FORWARD` is not. -/
theorem modesShareNoDataPath : Obligations.ModesShareNoDataPath := by
  intro s t x h
  refine ⟨fun havg hx => deliver_keeps_aggregate_of_passThrough havg hx h,
    fun hinv => deliver_aggregate_zero_of_passThrough hinv h, ?_, ?_⟩
  · rintro havg ⟨w, rfl, hw⟩
    rw [deliver_of_decode_ok (decode_flush _ hw), exec_selectFlush_passThrough havg] at h
    cases h
    exact ⟨rfl, silent_commit_none s _⟩
  · rintro havg ⟨w, b, rfl, hw⟩
    rw [deliver_of_decode_ok (decode_byte _ hw)] at h
    exact exec_select_byte_averaging (c := Context.of s.block (.ev w)) havg h

end Sys2Proof.Machine
end

section
/-! R150 to R152: `RESET`, and the two operations that ignore their event, each selected by its row of R85. -/

namespace Sys2Proof.Machine

open Claims

/-- Row 2 of R85, for a byte. -/
theorem selectByte_halt {c : Context} (hst : c.st = .halt) (b : Byte) : selectByte c b = .ignHalt (.byte b) := by
  simp [selectByte, hst]

/-- An operation that halts with an `Emit` emits the counter and the sums that it leaves (R134). -/
theorem exec_emit_in_halt {i : Instr} {s t : State} {n : CntWord} {v : Vector SumWord 12} {th : Bool}
    (h : exec i s = .next t) (hst : t.block.st = .halt) (hout : t.out = .emit n v th) :
    n = t.block.cnt ∧ v = t.block.sum := by
  obtain ⟨hnone, -⟩ | rfl | rfl | ⟨b, rfl⟩ := exec_output_cases h
  · cases hnone.symm.trans hout
  · cases h
    cases hout
  · cases h
    cases hout
    exact ⟨rfl, rfl⟩
  · cases h
    cases hst

@[simp] theorem State.undecoded_out (s : State) (x : Input) : (s.undecoded x).out = .none := by
  cases x <;> rfl

theorem deliver_emit_in_halt {x : Input} {s t : State} {n : CntWord} {v : Vector SumWord 12} {th : Bool}
    (h : deliver x s = .next t) (hst : t.block.st = .halt) (hout : t.out = .emit n v th) :
    n = t.block.cnt ∧ v = t.block.sum := by
  obtain ⟨i, -, hexec⟩ | rfl := deliver_next_cases h
  · exact exec_emit_in_halt hexec hst hout
  · cases (s.undecoded_out x).symm.trans hout

/-- From the delivery that halts on, the counter and the sums stand on their ports (R152, log 14). -/
theorem deliver_portData_in_halt {x : Input} {s t : State} (h : deliver x s = .next t) (hst : t.block.st = .halt) :
    t.portData = some (t.block.cnt, t.block.sum) := by
  by_cases hemit : ∃ n v th, t.out = .emit n v th
  · obtain ⟨n, v, th, hout⟩ := hemit
    obtain ⟨rfl, rfl⟩ := deliver_emit_in_halt h hst hout
    exact State.portData_emit hout
  · exact State.portData_halt hst fun n v th hout => hemit ⟨n, v, th, hout⟩

theorem State.outCount_eq_map (s : State) : s.ports.outCount = s.portData.map Prod.fst := rfl

theorem State.outCh_eq_map (s : State) : s.ports.outCh = s.portData.map Prod.snd := rfl

theorem State.aggregate_on_ports {t : State} (h : t.portData = some (t.block.cnt, t.block.sum)) :
    t.ports.outCount = some t.block.cnt ∧ t.ports.outCh = some t.block.sum := by
  simp [State.outCount_eq_map, State.outCh_eq_map, h]

/-- Settles O34: row 1 of R85 and the pseudocode, then the one event of a cycle with `rst`. -/
theorem resetStartsRun : Obligations.ResetStartsRun := by
  refine ⟨fun s w a th hw => ?_, fun p s hrst => ?_⟩
  · have hsum (i : Fin 12) : (vec12 fun _ => 0#48)[i] = 0#48 := vec12_getElem _ i i.isLt
    exact ⟨decode_reset_of_decodeEvent _ hw, _, rfl, rfl, rfl, hsum, rfl, rfl, rfl, rfl, rfl, rfl, rfl,
      List.append_nil s.outs⟩
  · have hwords : p.words s.block = [encodeEvent (.reset p.cfgAvgEn p.cfgThMode)] := by simp [InPorts.words, hrst]
    obtain ⟨t, hdeliver, hedge⟩ := clockEdge_of_words_one hwords
    rw [hedge, ← hdeliver, deliver_reset]

/-- Settles O35, by row 3 of R85 and the operation's pseudocode. -/
theorem passThroughIgnoresDeadline : Obligations.PassThroughIgnoresDeadline := by
  intro s w hw hst havg
  have hsel := selectFlush_passThrough (c := Context.of s.block (.ev w)) hst havg
  exact ⟨hsel ▸ decode_flush _ hw, _, rfl, rfl, silent_commit_none s _⟩

/-- Settles O36: row 2 of R85 and the pseudocode for each of the two events; what the ports show of a halted block
follows from what the delivery before left. -/
theorem haltIgnoresBytesAndDeadlines : Obligations.HaltIgnoresBytesAndDeadlines := by
  refine ⟨fun s w b hw hst => ?_, fun s w hw hst => ?_, fun s hst => ⟨inReady_eq_false hst, rfl, rfl⟩,
    fun s t x h hst => State.aggregate_on_ports (deliver_portData_in_halt h hst)⟩
  · have hsel := selectByte_halt (c := Context.of s.block (.ev w)) hst b
    exact ⟨hsel ▸ decode_byte _ hw, _, rfl, rfl, silent_commit_none s _⟩
  · have hsel := selectFlush_halt (c := Context.of s.block (.ev w)) hst
    exact ⟨hsel ▸ decode_flush _ hw, _, rfl, rfl, silent_commit_none s _⟩

end Sys2Proof.Machine
end

section
/-! R41: the output of a clock cycle, and the output ports after it. -/

namespace Sys2Proof.Machine

open Claims

/-- Every operation puts its own output, and no other, on the list of outputs (R8, R87). -/
theorem exec_outs {i : Instr} {s t : State} (h : exec i s = .next t) : t.outs = s.outs ++ t.out.toList := by
  cases i <;> cases h <;> rfl

theorem deliver_outs {x : Input} {s t : State} (h : deliver x s = .next t) : t.outs = s.outs ++ t.out.toList := by
  obtain ⟨i, -, hexec⟩ | rfl := deliver_next_cases h
  · exact exec_outs hexec
  · cases x <;> rfl

/-- The events of a cycle: none, one, or a byte and a deadline (R39, R40). -/
theorem InPorts.words_cases (p : InPorts) (r : Block) : p.words r = [] ∨ (∃ w, p.words r = [w]) ∨
    p.words r = [encodeEvent (.byte p.inByte), encodeEvent .flush] := by
  unfold InPorts.words
  split_ifs <;> simp

/-- A silent step that leaves the block changes nothing but the last output. -/
theorem eq_of_block_eq_of_silent {s t : State} (hblock : t.block = s.block) (h : Silent s t) :
    t = { s with out := .none } := by
  obtain ⟨hinputs, hout, houts, hfresh⟩ := h
  cases t
  simp_all

/-- A byte that gives an output is met in pass-through mode, where a deadline after it is ignored (R143). -/
theorem deliver_flush_after_output {b : Byte} {s t u : State}
    (hbyte : deliver (.ev (encodeEvent (.byte b))) s = .next t) (hout : t.out ≠ .none)
    (hflush : deliver (.ev (encodeEvent .flush)) t = .next u) : u = { t with out := .none } := by
  have isByte_word : isByte (.ev (encodeEvent (.byte b))) := ⟨_, b, rfl, decodeEvent_byte b⟩
  have isFlush_word : isFlush (.ev (encodeEvent .flush)) := ⟨_, rfl, decodeEvent_flush⟩
  have not_isReset_word : ¬ isReset (.ev (encodeEvent (.byte b))) := by
    rintro ⟨w, a, th, hx, hw⟩
    cases hx
    simp at hw
  obtain ⟨-, -, -, hsilent⟩ := modesShareNoDataPath s t _ hbyte
  obtain ⟨-, -, hignored, -⟩ := modesShareNoDataPath t u _ hflush
  obtain ⟨hmode, -⟩ := (onlyResetLoadsModes s t _ hbyte).1 not_isReset_word
  have havg : s.block.avgEn = false :=
    eq_false_of_ne_true fun havg => hout (hsilent havg isByte_word).1
  obtain ⟨hblock, hkept⟩ := hignored (hmode.trans havg) isFlush_word
  exact eq_of_block_eq_of_silent hblock hkept

/-- A clock edge leaves what a single delivery leaves, the events before and after it giving no output: an edge with no
event is like a word of kind 0 (R78). -/
theorem clockEdge_eq_delivery (p : InPorts) (s : State) :
    ∃ t x s', clockEdge p s = .next t ∧ s'.outs = s.outs ∧ deliver x s' = .next t := by
  obtain hwords | ⟨w, hwords⟩ | hwords := p.words_cases s.block
  · exact ⟨_, .ev 0#10, s, clockEdge_of_words_nil hwords, rfl, s.idle_eq ▸ rfl⟩
  · obtain ⟨t, ht, hedge⟩ := clockEdge_of_words_one hwords
    exact ⟨t, _, s, hedge, rfl, ht⟩
  · obtain ⟨t, u, ht, hu, hedge⟩ := clockEdge_of_words_two hwords
    by_cases hout : t.out = .none
    · rw [if_pos hout] at hedge
      have houts : t.outs = s.outs := by simpa [hout] using deliver_outs ht
      exact ⟨u, _, t, hedge, houts, hu⟩
    · rw [if_neg hout, deliver_flush_after_output ht hout hu] at hedge
      exact ⟨t, _, s, hedge, rfl, ht⟩

/-- At most one output, told by whether the last output is `None`. -/
theorem outs_cases {os os' : List Output} {o : Output} (h : os' = os ++ o.toList) :
    o = .none ∧ os' = os ∨ o ≠ .none ∧ os' = os ++ [o] := by
  cases o with
  | none => exact .inl ⟨rfl, h.trans (List.append_nil os)⟩
  | emit n v th => exact .inr ⟨by simp, h⟩
  | empty => exact .inr ⟨by simp, h⟩

theorem State.outValid_iff (s : State) : s.ports.outValid = true ↔
    ∃ n v th, s.out = .emit n v th ∧ s.ports.outCount = some n ∧ s.ports.outCh = some v := by
  cases hout : s.out with
  | emit n v th => simp [State.ports, hout, State.portData_emit hout]
  | none | empty => simp [State.ports, hout]

theorem State.outEmpty_iff (s : State) : s.ports.outEmpty = true ↔ s.out = .empty := by
  cases hout : s.out <;> simp [State.ports, hout]

theorem State.not_outValid_and_outEmpty (s : State) : (s.ports.outValid && s.ports.outEmpty) = false := by
  cases hout : s.out <;> simp [State.ports, hout]

/-- Settles O53: a clock edge leaves what one delivery leaves, which gives at most one output and in `HALT` has the
aggregate on its ports; the other ports follow the last output and the block. -/
theorem cycleHasAtMostOneOutput : Obligations.CycleHasAtMostOneOutput := by
  intro p s
  obtain ⟨t, x, s', hedge, houts, hdeliver⟩ := clockEdge_eq_delivery p s
  exact ⟨t, hedge, outs_cases (houts ▸ deliver_outs hdeliver), t.outValid_iff, t.outEmpty_iff,
    t.not_outValid_and_outEmpty, fun hst => State.aggregate_on_ports (deliver_portData_in_halt hdeliver hst),
    decide_eq_true_iff, decide_eq_true_iff, rfl, rfl⟩

end Sys2Proof.Machine
end

section
/-! R183: what a halted block does with its inputs. -/

namespace Sys2Proof.Machine

open Claims

/-- The rows of R85 that `HALT` leaves: rows 1 and 2, and a `FRAME`, which has no condition. -/
theorem selects_halt_cases {c : Context} {i : Instr} (hst : c.st = .halt) (hsel : selects c i = true) :
    (∃ a th, i = .reset a th) ∨ (∃ e, i = .ignHalt e) ∨ ∃ ch rsv csum, i = .frame ch rsv csum := by
  cases i with
  | reset a th => exact .inl ⟨a, th, rfl⟩
  | ignHalt e => exact .inr (.inl ⟨e, rfl⟩)
  | frame ch rsv csum => exact .inr (.inr ⟨ch, rsv, csum, rfl⟩)
  | _ => simp [selects, hst] at hsel

theorem deliver_halted_of_not_reset {x : Input} {s t : State} (hst : s.block.st = .halt) (hx : ¬ isReset x)
    (h : deliver x s = .next t) : t.block = s.block ∧ t.out = .none := by
  obtain ⟨i, hdec, hexec⟩ | rfl := deliver_next_cases h
  · obtain ⟨a, th, rfl⟩ | ⟨e, rfl⟩ | ⟨ch, rsv, csum, rfl⟩ :=
      selects_halt_cases (c := Context.of s.block x) hst (selects_of_decode hdec)
    · obtain ⟨w, rfl, hw⟩ := decodeEvent_of_decode_reset hdec
      exact absurd ⟨w, a, th, rfl, hw⟩ hx
    · cases hexec
      exact ⟨rfl, rfl⟩
    · cases hexec
      exact ⟨rfl, rfl⟩
  · exact ⟨s.undecoded_block x, s.undecoded_out x⟩

theorem deliver_reset_st {x : Input} {s t : State} (hx : isReset x) (h : deliver x s = .next t) :
    t.block.st = .seekFirst := by
  obtain ⟨w, a, th, rfl, hw⟩ := hx
  rw [deliver_of_decode_ok (decode_reset_of_decodeEvent _ hw)] at h
  cases h
  rfl

/-- Settles O49, by the rows of R85 that `HALT` leaves: they keep the block and give no output, but for `RESET`, which
goes to `SEEK_FIRST`. -/
theorem onlyResetLeavesHalt : Obligations.OnlyResetLeavesHalt := by
  intro s t x hst h
  refine ⟨fun hx => ?_, fun hx => by simp [deliver_reset_st hx h]⟩
  obtain ⟨hblock, hout⟩ := deliver_halted_of_not_reset hst hx h
  have houts : t.outs = s.outs := by simpa [hout] using deliver_outs h
  exact ⟨hblock, hout, houts⟩

end Sys2Proof.Machine
end

section
/-! R76 to R78 and R85: decode and encode are inverse, for the operations that an event selects and for `FRAME`. -/

namespace Sys2Proof.Machine

open Claims

/-- Rows 11 to 15 of R85 are looked at when `idx = 29`. -/
theorem selectByte_collect_last {c : Context} (hst : c.st = .collect) (hlast : c.last = true) (b : Byte) :
    selectByte c b = selectLast c b := by
  simp [selectByte, hst, hlast]

/-- Row 10 of R85 is looked at before that. -/
theorem selectByte_collect_not_last {c : Context} (hst : c.st = .collect) (hlast : c.last = false) (b : Byte) :
    selectByte c b = .collect b := by
  simp [selectByte, hst, hlast]

/-- The operations of the last payload byte are selected in `COLLECT` with `idx = 29` only (R85). -/
theorem selects_last {c : Context} {i : Instr} {b : Byte} (hsel : selects c i = true)
    (hi : i = .lastRejlen b ∨ i = .lastRejcsum b ∨ i = .lastForward b ∨ i = .lastAccum b ∨ i = .lastOvf b) :
    c.st = .collect ∧ c.last = true := by
  obtain rfl | rfl | rfl | rfl | rfl := hi <;> simp_all [selects]

/-- The word of an event decodes to the operation that the event selects (R85). -/
theorem decode_event_of_select {c : Context} {e : Event} {i : Instr} (h : select c e = i) :
    decode c (.ev (encodeEvent e)) = .ok i := h ▸ decode_event c e

/-- A 256-bit frame made of fields begins with the marker, and its payload is the one made of the fields (R76). -/
theorem frameByte_frameWord (ch : Vector Word 12) (rsv csum : Word) :
    frameByte (frameWord ch rsv csum) 0 = Config.mark0 ∧ frameByte (frameWord ch rsv csum) 1 = Config.mark1 ∧
      payloadOfFrame (frameWord ch rsv csum) = framePayload ch rsv csum := by
  have hbytes := bytesOfFrame_frameWord ch rsv csum
  rw [bytesOfFrame_eq, frameBytes] at hbytes
  simpa only [List.cons.injEq, Vector.toList_inj] using hbytes

theorem vec12_get (v : Vector Word 12) : (vec12 fun i => v[i]) = v := by
  ext1 i hi
  simp

/-- A `FRAME` with its right checksum is read back from its 256 bits, field by field (R77). -/
theorem decodeFrame_frameWord {ch : Vector Word 12} {rsv csum : Word}
    (hwf : (Instr.frame ch rsv csum).wellFormed = true) :
    decodeFrame (frameWord ch rsv csum) = .ok (.frame ch rsv csum) := by
  obtain ⟨h0, h1, hpayload⟩ := frameByte_frameWord ch rsv csum
  have hch : vec12 (channel (framePayload ch rsv csum)) = ch := by
    rw [funext (channel_framePayload ch rsv csum), vec12_get]
  have hrsv : wordAt (framePayload ch rsv csum) 13 = rsv := wordAt_framePayload ch rsv csum 13
  have hcsum : wordAt (framePayload ch rsv csum) 14 = csum := wordAt_framePayload ch rsv csum 14
  rw [decodeFrame_accepted (by rw [h0, h1]) (by rw [hpayload, accepts_framePayload hwf]), hpayload, hch, hrsv, hcsum]

/-- Settles O3, by the instruction: the rows of R85 that share an event exclude each other, so that the one whose
condition holds is selected, and a frame's fields stand at fixed places. -/
theorem decodeOfEncode : Obligations.DecodeOfEncode := by
  intro i c hwf hsel
  cases i with
  | frame ch rsv csum => exact decodeFrame_frameWord hwf
  | reset a th => exact decode_event c (.reset a th)
  | ignHalt e =>
    have hst : c.st = .halt := of_decide_eq_true hsel
    cases e with
    | byte b => exact decode_event_of_select (e := .byte b) (selectByte_halt hst b)
    | flush => exact decode_event_of_select (e := .flush) (selectFlush_halt hst)
  | ignFlush =>
    obtain ⟨hst, havg⟩ : c.st ≠ .halt ∧ c.avgEn = false := by simpa [selects] using hsel
    exact decode_event_of_select (e := .flush) (selectFlush_passThrough hst havg)
  | flushEmpty =>
    obtain ⟨⟨hst, havg⟩, hzero⟩ : (c.st ≠ .halt ∧ c.avgEn = true) ∧ c.cntZero = true := by
      simpa [selects] using hsel
    exact decode_event_of_select (e := .flush) ((selectFlush_averaging hst havg).trans (if_pos hzero))
  | flushOk =>
    obtain ⟨⟨hst, havg⟩, hzero⟩ : (c.st ≠ .halt ∧ c.avgEn = true) ∧ c.cntZero = false := by
      simpa [selects] using hsel
    exact decode_event_of_select (e := .flush)
      ((selectFlush_averaging hst havg).trans (if_neg (ne_true_of_eq_false hzero)))
  | seek1Hit =>
    exact decode_event_of_select (e := .byte Config.mark0) (selectByte_seekFirst_hit (of_decide_eq_true hsel))
  | seek1Miss b =>
    exact decode_event_of_select (e := .byte b)
      (selectByte_seekFirst_miss (of_decide_eq_true hsel) (bne_iff_ne.1 hwf))
  | seek2Hit =>
    exact decode_event_of_select (e := .byte Config.mark1) (selectByte_seekSecond_hit (of_decide_eq_true hsel))
  | seek2Miss b =>
    exact decode_event_of_select (e := .byte b)
      (selectByte_seekSecond_miss (of_decide_eq_true hsel) (bne_iff_ne.1 hwf))
  | collect b =>
    obtain ⟨hst, hlast⟩ : c.st = .collect ∧ c.last = false := by simpa [selects] using hsel
    exact decode_event_of_select (e := .byte b) (selectByte_collect_not_last hst hlast b)
  | lastRejlen b | lastRejcsum b | lastForward b | lastAccum b | lastOvf b =>
    obtain ⟨hst, hlast⟩ := selects_last (b := b) hsel (by simp)
    refine decode_event_of_select (e := .byte b) ((selectByte_collect_last hst hlast b).trans ?_)
    simp_all [selects, selectLast]

/-- Bit `j` of a 256-bit value is a bit of its byte `31 - j / 8` (R76). -/
theorem getLsbD_eq_frameByte (w : FrameWord) {j : Nat} (hj : j < 256) :
    w.getLsbD j = (frameByte w (31 - j / 8)).getLsbD (j % 8) := by
  have hplace : 248 - 8 * (31 - j / 8) + j % 8 = j := by omega
  have hmod : j % 8 < 8 := Nat.mod_lt _ (by omega)
  simp [frameByte, hmod, hplace]

/-- A 256-bit value is its 32 bytes (R76). -/
theorem bytesOfFrame_injective {w w' : FrameWord} (h : bytesOfFrame w = bytesOfFrame w') : w = w' := by
  have hbyte : ∀ f < 32, frameByte w f = frameByte w' f := by
    simpa [bytesOfFrame] using h
  apply BitVec.eq_of_getLsbD_eq
  intro j hj
  rw [getLsbD_eq_frameByte w hj, getLsbD_eq_frameByte w' hj, hbyte _ (by omega)]

/-- Payloads whose words agree are equal (R26). -/
theorem buf_ext_wordAt {p q : Buf} (h : ∀ k : Fin 15, wordAt p k = wordAt q k) : p = q := by
  ext1 j hj
  have hword := h ⟨j / 2, by omega⟩
  obtain heven | hodd := Nat.mod_two_eq_zero_or_one j
  · have hplace : 2 * (j / 2) = j := by omega
    simpa [wordAt, hplace] using congrArg hiByte hword
  · have hplace : 2 * (j / 2) + 1 = j := by omega
    simpa [wordAt, hplace] using congrArg loByte hword

/-- A payload with the right length is made of its fields (R55). -/
theorem framePayload_of_lenOk {p : Buf} (hlen : lenOk p = true) :
    framePayload (vec12 (channel p)) (wordAt p 13) (wordAt p 14) = p := by
  refine buf_ext_wordAt fun k => ?_
  have hzero : wordAt p 0 = Config.lenConst := beq_iff_eq.1 hlen
  rw [wordAt_framePayload]
  fin_cases k <;> simp [payloadWord, channel, hzero]

/-- What an event selects is well formed: a miss is not selected for the byte of the hit (R85). -/
theorem wellFormed_select (c : Context) (e : Event) : (select c e).wellFormed = true := by
  cases e with
  | reset a th => rfl
  | flush =>
    simp only [select, selectFlush]
    split_ifs <;> rfl
  | byte b =>
    cases hst : c.st with
    | halt => simp [select, selectByte_halt hst, Instr.wellFormed]
    | seekFirst => by_cases hb : b = Config.mark0 <;> simp [select, selectByte, hst, hb, Instr.wellFormed]
    | seekSecond => by_cases hb : b = Config.mark1 <;> simp [select, selectByte, hst, hb, Instr.wellFormed]
    | collect =>
      simp only [select, selectByte, hst, selectLast]
      split_ifs <;> rfl

/-- A 256-bit value that decodes is the encoding of a well-formed `FRAME` (R77). -/
theorem encode_of_decodeFrame {w : FrameWord} {i : Instr} (h : decodeFrame w = .ok i) :
    i.wellFormed = true ∧ encode i = .frame w := by
  obtain ⟨hmark, hacc⟩ := accepted_of_decodeFrame_ok h
  obtain ⟨h0, h1⟩ := marker_bytes hmark
  obtain ⟨hlen, hcsum⟩ : lenOk (payloadOfFrame w) = true ∧ csumOk (payloadOfFrame w) = true :=
    Bool.and_eq_true_iff.1 hacc
  have hpayload := framePayload_of_lenOk hlen
  rw [decodeFrame_accepted hmark hacc] at h
  obtain rfl := Except.ok.inj h
  constructor
  · have hsum : wordAt (payloadOfFrame w) 14 = csumCalc (payloadOfFrame w) := (beq_iff_eq.1 hcsum).symm
    rw [Instr.wellFormed, ← csumCalc_framePayload _ _ (wordAt (payloadOfFrame w) 14), hpayload, hsum, beq_self_eq_true]
  · refine congrArg Input.frame (bytesOfFrame_injective ?_)
    rw [bytesOfFrame_frameWord, frameBytes, hpayload, bytesOfFrame_eq, h0, h1]

theorem decodeEvent_encodeEvent (e : Event) : decodeEvent (encodeEvent e) = .ok e := by
  cases e with
  | reset a th => exact decodeEvent_reset a th
  | byte b => exact decodeEvent_byte b
  | flush => exact decodeEvent_flush

/-- Settles O4, by what decodes: an event, whose selected operation has the event's word, or a frame, which is made of
its fields. -/
theorem decodedIsSelectedAndWellFormed : Obligations.DecodedIsSelectedAndWellFormed := by
  intro c x i h
  have hsel := selects_of_decode h
  obtain ⟨w, e, rfl, he, rfl⟩ | ⟨w, ch, rsv, csum, rfl, rfl⟩ := decode_ok_cases h
  · refine ⟨wellFormed_select c e, hsel, nofun, ?_⟩
    rintro _ ⟨⟩
    exact ⟨_, encode_select c e, (decodeEvent_encodeEvent e).trans he.symm⟩
  · obtain ⟨hwf, hword⟩ := encode_of_decodeFrame h
    refine ⟨hwf, hsel, ?_, nofun⟩
    rintro _ ⟨⟩
    exact hword

end Sys2Proof.Machine
end

section
/-! R24, R30 and R136: every step keeps the machine's invariant. -/

namespace Sys2Proof.Machine

open Claims

/-- R24 of a block that has not been halted. -/
theorem seqInv_of_running {r : Block} (hst : r.st ≠ .halt) (hrun : r.status = .run)
    (hidx : r.st ≠ .collect → r.idx = 0) : r.SeqInv :=
  ⟨hidx, ⟨fun h => absurd h hst, fun h => absurd hrun h⟩, fun _ => hst⟩

/-- R24 of a block halted in averaging mode. -/
theorem seqInv_of_halted {r : Block} (hst : r.st = .halt) (hstatus : r.status ≠ .run) (havg : r.avgEn = true)
    (hidx : r.idx = 0) : r.SeqInv :=
  ⟨fun _ => hidx, ⟨fun _ => hstatus, fun _ => hst⟩, fun h => absurd (havg.symm.trans h) (by simp)⟩

theorem status_run_of_seqInv {r : Block} (h : r.SeqInv) (hst : r.st ≠ .halt) : r.status = .run := by
  obtain ⟨-, hhalt, -⟩ := h
  by_contra hstatus
  exact hst (hhalt.2 hstatus)

/-- A selected operation keeps R24: only a taken deadline halts, and it writes the status. -/
theorem exec_keeps_seqInv {i : Instr} {s t : State} {x : Input} (hinv : s.block.SeqInv)
    (hsel : selects (Context.of s.block x) i = true) (h : exec i s = .next t) : t.block.SeqInv := by
  have hrun : s.block.st ≠ .halt → s.block.status = .run := status_run_of_seqInv hinv
  have hidx : s.block.st ≠ .collect → s.block.idx = 0 := hinv.1
  cases i with
  | ignHalt _ | ignFlush | seek1Miss _ | frame _ _ _ => cases h; exact hinv
  | reset a th => cases h; exact seqInv_of_running (by simp [Block.reset]) rfl fun _ => rfl
  | flushEmpty | flushOk =>
    simp only [selects, Bool.and_eq_true] at hsel
    obtain ⟨⟨-, havg⟩, -⟩ := hsel
    cases h
    exact seqInv_of_halted rfl (by simp) havg rfl
  | seek1Hit =>
    have hst : s.block.st = .seekFirst := of_decide_eq_true hsel
    cases h
    exact seqInv_of_running (by simp) (hrun (by simp [hst])) fun _ => hidx (by simp [hst])
  | seek2Hit =>
    have hst : s.block.st = .seekSecond := of_decide_eq_true hsel
    cases h
    exact seqInv_of_running (by simp) (hrun (by simp [hst])) fun _ => rfl
  | seek2Miss b =>
    have hst : s.block.st = .seekSecond := of_decide_eq_true hsel
    cases h
    exact seqInv_of_running (by simp) (hrun (by simp [hst])) fun _ => hidx (by simp [hst])
  | collect b =>
    simp only [selects, Bool.and_eq_true, decide_eq_true_eq] at hsel
    have hst : s.block.st = .collect := hsel.1
    cases h
    exact seqInv_of_running (by simp [hst]) (hrun (by simp [hst])) fun hne => absurd hst hne
  | lastRejlen b | lastRejcsum b | lastForward b | lastAccum b | lastOvf b =>
    obtain ⟨hst, -⟩ : s.block.st = .collect ∧ _ := selects_last (b := b) hsel (by simp)
    cases h
    exact seqInv_of_running (by simp) (hrun (by simp [hst])) fun _ => rfl

/-- A cleared aggregate is within R30, whatever the mode. -/
theorem accInv_of_cleared {r : Block} (hsum : ∀ i : Fin 12, r.sum[i] = 0#48) (hcnt : r.cnt = 0#32)
    (hovf : r.ovf = false) : r.AccInv :=
  ⟨fun i => by simp [hsum i], fun _ => ⟨hcnt, hsum, hovf⟩, fun h => absurd (hovf.symm.trans h) (by simp)⟩

/-- The condition of `LAST.ACCUM`: averaging mode, and the counter is not full (R132). -/
theorem selects_lastAccum {c : Context} {b : Byte} (hsel : selects c (.lastAccum b) = true) :
    c.avgEn = true ∧ c.cntFull = false := by
  simp_all [selects]

/-- The condition of `LAST.OVF`: averaging mode, and the counter is full (R133). -/
theorem selects_lastOvf {c : Context} {b : Byte} (hsel : selects c (.lastOvf b) = true) :
    c.avgEn = true ∧ c.cntFull = true := by
  simp_all [selects]

/-- A selected operation keeps R30: a frame adds at most 65535 to a sum and 1 to the counter, which has room for it,
and `ovf` is set with the counter full. -/
theorem exec_keeps_accInv {i : Instr} {s t : State} {x : Input} (hinv : s.block.AccInv)
    (hsel : selects (Context.of s.block x) i = true) (h : exec i s = .next t) : t.block.AccInv := by
  cases i with
  | reset a th =>
    cases h
    exact accInv_of_cleared (fun i => vec12_getElem (fun _ => 0#48) i i.isLt) rfl rfl
  | lastAccum b =>
    obtain ⟨havg, hfull⟩ := selects_lastAccum hsel
    obtain ⟨hsum, -, hovf⟩ := hinv
    have hroom : s.block.cnt.toNat < 2 ^ 32 - 1 := (cntFull_eq_false_iff _).1 hfull
    cases h
    refine ⟨fun i => State.accumulated_sum_le (s.block.lastBuf b) i (hsum i) hroom, fun h => ?_, fun h => ?_⟩
    · exact absurd (havg.symm.trans h) (by simp)
    · exact absurd (hovf h) (beq_eq_false_iff_ne.1 hfull)
  | lastOvf b =>
    obtain ⟨havg, hfull⟩ := selects_lastOvf hsel
    obtain ⟨hsum, -, -⟩ := hinv
    cases h
    exact ⟨hsum, fun h => absurd (havg.symm.trans h) (by simp), fun _ => beq_iff_eq.1 hfull⟩
  | _ => cases h; exact hinv

/-- The output of a selected operation is `None` or well made (R136). -/
theorem exec_output_wellMade {i : Instr} {s t : State} {x : Input} (hinv : s.block.AccInv)
    (hsel : selects (Context.of s.block x) i = true) (h : exec i s = .next t) : t.out = .none ∨ t.out.WellMade := by
  obtain ⟨hnone, -⟩ | rfl | rfl | ⟨b, rfl⟩ := exec_output_cases h
  · exact .inl hnone
  · cases h
    exact .inr trivial
  · have hzero : cntZero s.block.cnt = false := by simp_all [selects, Context.of, Context.ofByte]
    obtain ⟨hsum, -, -⟩ := hinv
    cases h
    exact .inr ⟨Nat.one_le_iff_ne_zero.2 (mt (cntZero_iff _).2 (by simp [hzero])), hsum⟩
  · cases h
    refine .inr ⟨le_rfl, fun i => ?_⟩
    have hlane : (channelLanes (s.block.lastBuf b))[i].toNat = (channel (s.block.lastBuf b) i).toNat := by
      rw [channelLanes_toNat, channel_toNat]
    have hch := (channel (s.block.lastBuf b) i).isLt
    simp only [hlane]
    exact Nat.le_of_lt_succ hch

theorem exec_keeps_inv {i : Instr} {s t : State} {x : Input} (hinv : s.Inv)
    (hsel : selects (Context.of s.block x) i = true) (h : exec i s = .next t) : t.Inv := by
  obtain ⟨⟨hseq, hacc⟩, houts⟩ := hinv
  refine ⟨⟨exec_keeps_seqInv hseq hsel h, exec_keeps_accInv hacc hsel h⟩, fun o ho => ?_⟩
  obtain ⟨-, hlist⟩ | ⟨hne, hlist⟩ := outs_cases (exec_outs h)
  · exact houts o (hlist ▸ ho)
  · rw [hlist, List.mem_append, List.mem_singleton] at ho
    obtain hold | rfl := ho
    · exact houts o hold
    · exact (exec_output_wellMade hacc hsel h).resolve_left hne

@[simp] theorem State.undecoded_outs (s : State) (x : Input) : (s.undecoded x).outs = s.outs := by
  cases x <;> exact List.append_nil s.outs

theorem deliver_keeps_inv {x : Input} {s t : State} (hinv : s.Inv) (h : deliver x s = .next t) : t.Inv := by
  obtain ⟨i, hdec, hexec⟩ | rfl := deliver_next_cases h
  · exact exec_keeps_inv hinv (selects_of_decode hdec) hexec
  · simpa [State.Inv] using hinv

/-- Settles O45: a step delivers a waiting input, which keeps R24, R30 and R136 each, or idles. -/
theorem stepKeepsMachineInvariants : Obligations.StepKeepsMachineInvariants := by
  intro s t hinv h
  cases hin : s.inputs with
  | nil =>
    rw [step_nil hin, s.idle_eq] at h
    cases h
    exact hinv
  | cons x xs =>
    rw [step_cons hin] at h
    exact deliver_keeps_inv (s := { s with inputs := xs }) hinv h

/-- Settles O46: right after reset the block seeks with nothing collected, and no output has been given. -/
theorem resetSatisfiesInvariants : Obligations.ResetSatisfiesInvariants :=
  ⟨⟨seqInv_of_running (by simp [State.reset, Block.reset]) rfl fun _ => rfl,
    accInv_of_cleared (fun i => vec12_getElem (fun _ => 0#48) i i.isLt) rfl rfl⟩, nofun⟩

end Sys2Proof.Machine
end

section
/-! R36, R113 to R116 and R124: the checksum sum, its bounds, and what one changed byte does to it. -/

namespace Sys2Proof.Machine

open Claims

/-- Twenty-eight bytes at their largest and the marker (R116). -/
theorem byteSum_le (p : Buf) : byteSum p ≤ 7283 := by
  unfold byteSum
  omega

theorem csumCalc_toNat (p : Buf) : (csumCalc p).toNat = byteSum p := by
  obtain ⟨hcalc, -⟩ := checksumIsByteSum p
  have hle := byteSum_le p
  rw [hcalc, Nat.mod_eq_of_lt (by omega)]

/-- The two length bytes contribute exactly 28, and the other 26 at most 255 each (R116). -/
theorem byteSum_bounds_of_lenOk {p : Buf} (hlen : lenOk p = true) : 171 ≤ byteSum p ∧ byteSum p ≤ 6801 := by
  obtain ⟨hhi, hlo⟩ := (lenField_eq_28_iff p).1 ((lenOk_iff p).1 hlen)
  have hhi' : p[0].toNat = 0 := by simp [hhi]
  have hlo' : p[1].toNat = 28 := by simp [hlo]
  unfold byteSum
  omega

/-- Settles O22, by adding up the bounds of the bytes. -/
theorem checksumNeverWraps : Obligations.ChecksumNeverWraps :=
  fun p => ⟨byteSum_le p, csumCalc_toNat p, byteSum_bounds_of_lenOk⟩

/-- Adding bytes in a 16-bit register is adding their numbers modulo 65536 (R81). -/
theorem foldl_add_bytes (bs : List Byte) (n : Nat) :
    bs.foldl (fun acc b => acc + b.setWidth 16) (BitVec.ofNat 16 n) =
      BitVec.ofNat 16 (n + (bs.map BitVec.toNat).sum) := by
  induction bs generalizing n with
  | nil => rfl
  | cons b bs ih =>
    have hadd : BitVec.ofNat 16 n + b.setWidth 16 = BitVec.ofNat 16 (n + b.toNat) :=
      BitVec.eq_of_toNat_eq (by simp)
    rw [List.foldl_cons, hadd, ih, List.map_cons, List.sum_cons, Nat.add_assoc]

/-- Settles O24, by induction on the bytes added. -/
theorem runningChecksumAgrees : Obligations.RunningChecksumAgrees :=
  fun p => foldl_add_bytes (p.toList.take 28) 143

/-- The checksum check without the reduction, which changes nothing (R115, R116). -/
theorem csumOk_iff_byteSum (p : Buf) : csumOk p = true ↔ byteSum p = csumField p := by
  have hle := byteSum_le p
  rw [csumOk_iff, Nat.mod_eq_of_lt (by omega)]

/-- The payload bytes in the checksum sum, as numbers (R114). -/
def summedBytes (p : Buf) : List Nat := (p.toList.take 28).map BitVec.toNat

theorem byteSum_eq_summedBytes (p : Buf) : byteSum p = 143 + (summedBytes p).sum := (csumSum_eq_byteSum p).symm

theorem summedBytes_set (p : Buf) (b : Byte) {j : Nat} (hj : j < 30) :
    summedBytes (p.set j b) = (summedBytes p).set j b.toNat := by
  simp only [summedBytes, Vector.toList_set, List.take_set, List.map_set]

/-- One changed byte moves the sum by the difference (R124). -/
theorem byteSum_set_of_summed (p : Buf) (b : Byte) {j : Nat} (hj : j < 28) :
    byteSum (p.set j b) + p[j].toNat = byteSum p + b.toNat := by
  have hlength : j < (summedBytes p).length := by simpa [summedBytes] using hj
  have hlength' : j < ((summedBytes p).set j b.toNat).length := by simpa using hlength
  have hbyte : (summedBytes p)[j] = p[j].toNat := by simp [summedBytes]
  have hold := List.CommMonoid.add_sum_eraseIdx hlength
  have hnew := List.CommMonoid.add_sum_eraseIdx hlength'
  rw [List.getElem_set_self, List.eraseIdx_set_eq] at hnew
  rw [byteSum_eq_summedBytes, byteSum_eq_summedBytes, summedBytes_set, ← hold, ← hnew, hbyte]
  omega

/-- The stored checksum's bytes are not in the sum (R114). -/
theorem byteSum_set_of_stored (p : Buf) (b : Byte) {j : Nat} (hj : 28 ≤ j) (hj' : j < 30) :
    byteSum (p.set j b) = byteSum p := by
  rw [byteSum_eq_summedBytes, byteSum_eq_summedBytes, summedBytes_set,
    List.set_eq_of_length_le (by simp [summedBytes, hj])]

theorem csumField_set_of_summed (p : Buf) (b : Byte) {j : Nat} (hj : j < 28) :
    csumField (p.set j b) = csumField p := by
  have h28 : j ≠ 28 := by omega
  have h29 : j ≠ 29 := by omega
  simp [csumField, h28, h29]

/-- The stored checksum tells each value of its two bytes from the others (R53). -/
theorem csumField_set_of_stored {p : Buf} {b : Byte} {j : Nat} (hj : 28 ≤ j) (hj' : j < 30) (hb : b ≠ p[j]) :
    csumField (p.set j b) ≠ csumField p := by
  rw [ne_eq, BitVec.toNat_eq] at hb
  obtain rfl | rfl : j = 28 ∨ j = 29 := by omega
  · simpa [csumField] using hb
  · simpa [csumField] using hb

/-- A changed byte from the third on, in a payload whose checksum is right, makes it wrong (R124). -/
theorem csumOk_set_eq_false {p : Buf} {b : Byte} {j : Nat} (hcsum : csumOk p = true) (hj : j < 30) (hb : b ≠ p[j]) :
    csumOk (p.set j b) = false := by
  rw [csumOk_iff_byteSum] at hcsum
  rw [Bool.eq_false_iff, ne_eq, csumOk_iff_byteSum]
  by_cases hstored : 28 ≤ j
  · rw [byteSum_set_of_stored p b hstored hj, hcsum]
    exact (csumField_set_of_stored hstored hj hb).symm
  · have hsum := byteSum_set_of_summed p b (Nat.not_le.1 hstored)
    rw [ne_eq, BitVec.toNat_eq] at hb
    rw [csumField_set_of_summed p b (Nat.not_le.1 hstored)]
    omega

theorem lenField_set_of_not_length (p : Buf) (b : Byte) {j : Nat} (hj : 2 ≤ j) (hj' : j < 30) :
    lenField (p.set j b) = lenField p := by
  have h0 : j ≠ 0 := by omega
  have h1 : j ≠ 1 := by omega
  simp [lenField, h0, h1]

/-- Each of the two length bytes has one right value (R113, R124). -/
theorem lenOk_set_eq_false {p : Buf} {b : Byte} {j : Nat} (hlen : lenOk p = true) (hj : j < 2)
    (hb : b ≠ p[j]) : lenOk (p.set j b) = false := by
  rw [lenOk_iff, lenField_eq_28_iff] at hlen
  rw [Bool.eq_false_iff, ne_eq, lenOk_iff, lenField_eq_28_iff]
  obtain rfl | rfl : j = 0 ∨ j = 1 := by omega
  · rw [hlen.1] at hb
    simp [hb]
  · rw [hlen.2] at hb
    simp [hb]

/-- Settles O26: a changed length byte has not its one right value; any other byte changes either the sum or the stored
checksum, and not both. -/
theorem singleByteMutationRejected : Obligations.SingleByteMutationRejected := by
  intro p j b hacc hb
  obtain ⟨hlen, hcsum⟩ : lenOk p = true ∧ csumOk p = true := Bool.and_eq_true_iff.1 hacc
  refine ⟨fun hj => lenOk_set_eq_false hlen hj hb, fun hj => ⟨?_, csumOk_set_eq_false hcsum j.isLt hb⟩⟩
  rwa [lenOk_iff, lenField_set_of_not_length p b hj j.isLt, ← lenOk_iff]

end Sys2Proof.Machine
end

section
/-! R85: the step on an event is the operation map's row, as the table of the statements gives it. -/

namespace Sys2Proof.Machine

open Claims

/-- The state that the table gives after an event other than `RESET`. -/
def State.tabled (s : State) (e : Event) : State := s.commit (tableStep s.block e).1 (tableStep s.block e).2

theorem fin_ofNat_succ {idx : Fin 30} (h : idx.val < 29) : Fin.ofNat 30 (idx.val + 1) = nextIdx idx := by
  apply Fin.ext
  rw [nextIdx_val h]
  exact Nat.mod_eq_of_lt (by omega)

theorem addLanes_eq_ofFn (sum : Vector SumWord 12) (p : Buf) :
    addLanes sum p = Vector.ofFn fun i => sum[i] + BitVec.ofNat 48 (chField p i) := by
  ext1 i hi
  rw [addLanes_getElem, Vector.getElem_ofFn, widen_channel]
  rfl

theorem cntFull_iff (cnt : CntWord) : cntFull cnt = true ↔ cnt.toNat = 2 ^ 32 - 1 := by
  refine ⟨fun h => ?_, cntFull_of_toNat_eq⟩
  rw [beq_iff_eq.1 h]
  rfl

/-- Rows 3 to 5 of R85, and row 2 for a deadline. -/
theorem exec_selectFlush_eq_tabled (s : State) (x : Input) :
    exec (selectFlush (Context.of s.block x)) s = .next (s.tabled .flush) := by
  simp only [State.tabled, tableStep, ← cntZero_iff]
  split_ifs with hhalt hmode hzero
  · rw [selectFlush_halt hhalt]
    rfl
  · rw [selectFlush_passThrough hhalt hmode]
    rfl
  · rw [(selectFlush_averaging hhalt (eq_true_of_ne_false hmode)).trans (if_pos hzero)]
    rfl
  · rw [(selectFlush_averaging hhalt (eq_true_of_ne_false hmode)).trans (if_neg hzero)]
    rfl

/-- The block that the table gives after a last payload byte that completes a rejected frame. -/
theorem tableStep_last {r : Block} (b : Byte) (hst : r.st = .collect) (hidx : r.idx.val = 29) :
    tableStep r (.byte b) =
      if lenOk (r.lastBuf b) = false then (r.endFrame b, .none)
      else if csumOk (r.lastBuf b) = false then (r.endFrame b, .none)
      else if r.avgEn = false then (r.endFrame b, .emit 1#32 (channelLanes (r.lastBuf b)) r.thMode)
      else if cntFull r.cnt = true then ((r.endFrame b).setOvf, .none)
      else ({ r.endFrame b with sum := addLanes r.sum (r.lastBuf b), cnt := r.cnt + 1#32 }, .none) := by
  simp only [tableStep, hst, hidx, reduceCtorEq, if_false, lt_irrefl, ne_eq, ← lenOk_iff, ← csumOk_iff, ← cntFull_iff,
    channelLanes_eq_ofFn, addLanes_eq_ofFn, Bool.not_eq_true]
  rfl

/-- Rows 11 to 15 of R85. -/
theorem exec_selectLast_eq_tabled {s : State} (b : Byte) (hst : s.block.st = .collect) (hidx : s.block.idx.val = 29) :
    exec (selectLast (Context.ofByte s.block b) b) s = .next (s.tabled (.byte b)) := by
  rw [State.tabled, tableStep_last b hst hidx]
  split_ifs with hlen hcsum hmode hfull
  · rw [selectLast_bad_length hlen]
    rfl
  · rw [selectLast_bad_checksum (eq_true_of_ne_false hlen) hcsum]
    rfl
  all_goals
    have hsel := selectLast_accepted (c := Context.ofByte s.block b) (eq_true_of_ne_false hlen)
      (eq_true_of_ne_false hcsum) b
  · rw [hsel.trans (if_pos hmode)]
    rfl
  · rw [hsel.trans ((if_neg hmode).trans (if_pos hfull))]
    rfl
  · rw [hsel.trans ((if_neg hmode).trans (if_neg hfull))]
    rfl

/-- Row 2 of R85 in the table. -/
theorem tableStep_halt {r : Block} (b : Byte) (hst : r.st = .halt) : tableStep r (.byte b) = (r, .none) := if_pos hst

/-- Rows 6 and 7 of R85 in the table. -/
theorem tableStep_seekFirst {r : Block} (b : Byte) (hst : r.st = .seekFirst) :
    tableStep r (.byte b) = if b = Config.mark0 then ({ r with st := .seekSecond }, .none) else (r, .none) := by
  simp only [tableStep, hst, reduceCtorEq, if_false, if_true, BitVec.toNat_eq]
  rfl

/-- Rows 8 and 9 of R85 in the table. -/
theorem tableStep_seekSecond {r : Block} (b : Byte) (hst : r.st = .seekSecond) :
    tableStep r (.byte b) =
      if b = Config.mark1 then ({ r with st := .collect, idx := 0 }, .none)
      else ({ r with st := .seekFirst }, .none) := by
  simp only [tableStep, hst, reduceCtorEq, if_false, if_true, BitVec.toNat_eq]
  rfl

/-- Row 10 of R85 in the table. -/
theorem tableStep_collect {r : Block} (b : Byte) (hst : r.st = .collect) (hidx : r.idx.val < 29) :
    tableStep r (.byte b) = ({ r.storeByte b with idx := nextIdx r.idx }, .none) := by
  simp only [tableStep, hst, hidx, reduceCtorEq, if_false, if_true, fin_ofNat_succ hidx]
  simp only [Block.storeByte, hst]

/-- Rows 6 to 15 of R85, and row 2 for a byte. -/
theorem exec_selectByte_eq_tabled (s : State) (b : Byte) :
    exec (selectByte (Context.ofByte s.block b) b) s = .next (s.tabled (.byte b)) := by
  cases hst : s.block.st with
  | halt =>
    rw [selectByte_halt hst, State.tabled, tableStep_halt b hst]
    rfl
  | seekFirst =>
    rw [State.tabled, tableStep_seekFirst b hst]
    split_ifs with hb
    · rw [hb, selectByte_seekFirst_hit hst]
      rfl
    · rw [selectByte_seekFirst_miss hst hb]
      rfl
  | seekSecond =>
    rw [State.tabled, tableStep_seekSecond b hst]
    split_ifs with hb
    · rw [hb, selectByte_seekSecond_hit hst]
      rfl
    · rw [selectByte_seekSecond_miss hst hb]
      rfl
  | collect =>
    by_cases hidx : s.block.idx.val < 29
    · rw [selectByte_collect hst hidx, State.tabled, tableStep_collect b hst hidx]
      rfl
    · have hlast : s.block.idx.val = 29 := by omega
      rw [selectByte_last hst hlast, exec_selectLast_eq_tabled b hst hlast]

/-- Delivering an event other than `RESET` is the table's step (R85). -/
theorem deliver_eq_tabled {w : EvWord} {e : Event} (s : State) (hw : decodeEvent w = .ok e)
    (he : ∀ a th, e ≠ .reset a th) : deliver (.ev w) s = .next (s.tabled e) := by
  cases e with
  | reset a th => exact absurd rfl (he a th)
  | flush => rw [deliver_of_decode_ok (decode_flush _ hw), exec_selectFlush_eq_tabled]
  | byte b => rw [deliver_of_decode_ok (decode_byte_of_block _ hw), exec_selectByte_eq_tabled]

theorem Output.toList_eq_ite (o : Output) : o.toList = if o = .none then [] else [o] := by
  cases o <;> rfl

/-- Settles O10: `RESET` writes all the table writes and draws a new `buf`; every other event ends as the table says. -/
theorem stepFollowsOperationTable : Obligations.StepFollowsOperationTable := by
  intro s w e hw
  cases e with
  | reset a th =>
    refine ⟨_, deliver_of_decode_ok (decode_reset_of_decodeEvent _ hw), ?_, fun he => absurd rfl (he a th), rfl, rfl,
      rfl⟩
    rintro _ _ ⟨⟩
    rfl
  | byte b | flush =>
    refine ⟨_, deliver_eq_tabled s hw nofun, nofun, fun _ => ⟨rfl, rfl⟩, rfl, ?_, rfl⟩
    exact congrArg (s.outs ++ ·) (Output.toList_eq_ite _)

/-- Settles O50: the table's deadline rows look at the mode and the aggregate only, but for the halt. -/
theorem deadlineOutputIgnoresFrameInProgress : Obligations.DeadlineOutputIgnoresFrameInProgress := by
  intro s s' t t' w hw hst hst' havg hcnt hsum hth h h'
  rw [deliver_eq_tabled s hw nofun] at h
  rw [deliver_eq_tabled s' hw nofun] at h'
  cases h
  cases h'
  simp only [State.tabled, State.commit_out, State.commit_block, tableStep, if_neg hst, if_neg hst', ← havg, ← hcnt,
    ← hsum, ← hth]
  split_ifs with hmode hzero
  · exact ⟨rfl, fun h => absurd (h.symm.trans hmode) (by simp)⟩
  · exact ⟨rfl, fun _ => rfl⟩
  · exact ⟨rfl, fun _ => rfl⟩

end Sys2Proof.Machine
end

section
/-! R136 and R199: the one output of an averaging run. -/

namespace Sys2Proof.Machine

open Claims

/-- A byte neither halts the block nor writes its mode (R85). -/
theorem tableStep_byte_keeps_running {r : Block} (b : Byte) (hst : r.st ≠ .halt) :
    (tableStep r (.byte b)).1.st ≠ .halt ∧ (tableStep r (.byte b)).1.avgEn = r.avgEn := by
  cases hcase : r.st with
  | halt => exact absurd hcase hst
  | seekFirst =>
    rw [tableStep_seekFirst b hcase]
    split_ifs <;> simp [hcase]
  | seekSecond =>
    rw [tableStep_seekSecond b hcase]
    split_ifs <;> simp
  | collect =>
    by_cases hidx : r.idx.val < 29
    · rw [tableStep_collect b hcase hidx]
      simp [hcase]
    · rw [tableStep_last b hcase (by omega)]
      split_ifs <;> simp

/-- A byte in an averaging run gives no output and leaves the run going (R143). -/
theorem deliver_byte_averaging {w : EvWord} {b : Byte} {s : State} (hw : decodeEvent w = .ok (.byte b))
    (havg : s.block.avgEn = true) (hst : s.block.st ≠ .halt) :
    ∃ t, deliver (.ev w) s = .next t ∧ t.outs = s.outs ∧ t.block.avgEn = true ∧ t.block.st ≠ .halt := by
  have ht := deliver_eq_tabled s hw nofun
  obtain ⟨-, -, -, hsilent⟩ := modesShareNoDataPath s _ _ ht
  obtain ⟨hst', havg'⟩ := tableStep_byte_keeps_running b hst
  exact ⟨_, ht, (hsilent havg ⟨w, b, rfl, hw⟩).2, havg'.trans havg, hst'⟩

theorem deliverAll_bytes_averaging (xs : List EvWord) (hxs : ∀ w ∈ xs, ∃ b, decodeEvent w = .ok (.byte b)) (s : State)
    (havg : s.block.avgEn = true) (hst : s.block.st ≠ .halt) :
    ∃ t, deliverAll (xs.map .ev) s = .next t ∧ t.outs = s.outs ∧ t.block.avgEn = true ∧ t.block.st ≠ .halt := by
  induction xs generalizing s with
  | nil => exact ⟨s, rfl, rfl, havg, hst⟩
  | cons w xs ih =>
    obtain ⟨⟨b, hw⟩, hxs⟩ := List.forall_mem_cons.1 hxs
    obtain ⟨t, ht, houts, havg', hst'⟩ := deliver_byte_averaging hw havg hst
    obtain ⟨u, hu, houts', hrun⟩ := ih hxs t havg' hst'
    exact ⟨u, (deliverAll_cons_next _ ht).trans hu, houts'.trans houts, hrun⟩

/-- The deadline of an averaging run gives its output and halts (R134, R135). -/
theorem deliver_flush_averaging {s : State} (havg : s.block.avgEn = true) (hst : s.block.st ≠ .halt) :
    ∃ t o, deliver (.ev (encodeEvent .flush)) s = .next t ∧ t.outs = s.outs ++ [o] ∧
      (o = .empty ∨ ∃ n l th, o = .emit n l th ∧ 1 ≤ n.toNat) ∧ t.block.st = .halt ∧ t.block.status ≠ .run := by
  by_cases hcnt : s.block.cnt.toNat = 0
  · exact ⟨_, .empty, deliver_flush_empty hst havg hcnt, rfl, .inl rfl, rfl, by simp⟩
  · exact ⟨_, _, deliver_flush_ok hst havg hcnt, rfl, .inr ⟨_, _, _, rfl, Nat.one_le_iff_ne_zero.2 hcnt⟩, rfl, by simp⟩

/-- An event word that is not `RESET`'s is no `RESET` input. -/
theorem not_isReset {w : EvWord} {e : Event} (hw : decodeEvent w = .ok e) (he : ∀ a th, e ≠ .reset a th) :
    ¬ isReset (.ev w) := by
  rintro ⟨_, a, th, ⟨⟩, hreset⟩
  exact he a th (Except.ok.inj (hw.symm.trans hreset))

theorem deliverAll_halted (ys : List EvWord) (hys : ∀ w ∈ ys, ¬ isReset (.ev w)) (s : State)
    (hst : s.block.st = .halt) :
    ∃ t, deliverAll (ys.map .ev) s = .next t ∧ t.outs = s.outs ∧ t.block = s.block := by
  induction ys generalizing s with
  | nil => exact ⟨s, rfl, rfl, rfl⟩
  | cons w ys ih =>
    obtain ⟨hw, hys⟩ := List.forall_mem_cons.1 hys
    obtain ⟨t, ht⟩ := deliver_eq_next (.ev w) s
    obtain ⟨hblock, -, houts⟩ := (onlyResetLeavesHalt s t _ hst ht).1 hw
    obtain ⟨u, hu, houts', hblock'⟩ := ih hys t (hblock ▸ hst)
    exact ⟨u, (deliverAll_cons_next _ ht).trans hu, houts'.trans houts, hblock'.trans hblock⟩

/-- Settles O42: bytes leave the averaging run going, the deadline halts it with one output, and in `HALT` the events
are ignored. -/
theorem oneOutputPerAveragingRun : Obligations.OneOutputPerAveragingRun := by
  intro xs ys s havg hst hxs hys
  obtain ⟨t, ht, houts, havg', hst'⟩ := deliverAll_bytes_averaging xs hxs s havg hst
  obtain ⟨u, o, hu, houts', ho, hhalt, hstatus⟩ := deliver_flush_averaging havg' hst'
  have hys' : ∀ w ∈ ys, ¬ isReset (.ev w) := by
    intro w hw
    obtain ⟨b, hbyte⟩ | hflush := hys w hw
    · exact not_isReset hbyte nofun
    · exact not_isReset hflush nofun
  obtain ⟨v, hv, houts'', hblock⟩ := deliverAll_halted ys hys' u hhalt
  exact ⟨t, u, v, o, ht, hu, hv, houts, houts ▸ houts', ho, hhalt, hstatus, houts'', hblock⟩

end Sys2Proof.Machine
end

section
/-! R78: the event word by its number, and the event words of a clock cycle. -/

namespace Sys2Proof.Machine

open Claims

theorem evKind_toNat (w : EvWord) : (evKind w).toNat = w.toNat / 256 := by
  have hw := w.isLt
  rw [evKind, BitVec.extractLsb'_toNat, Nat.shiftRight_eq_div_pow]
  omega

theorem evData_eq_ofNat (w : EvWord) : evData w = BitVec.ofNat 8 (w.toNat % 256) :=
  BitVec.eq_of_toNat_eq (by simp [evData])

theorem evKind_eq {w : EvWord} {k : BitVec 2} (h : w.toNat / 256 = k.toNat) : evKind w = k :=
  BitVec.eq_of_toNat_eq ((evKind_toNat w).trans h)

theorem getLsbD_zero_eq_decide (w : EvWord) : w.getLsbD 0 = decide (w.toNat % 2 = 1) := by
  rw [BitVec.getLsbD, Nat.testBit_eq_decide_div_mod_eq, Nat.pow_zero, Nat.div_one]

theorem getLsbD_one_eq_decide (w : EvWord) : w.getLsbD 1 = decide (w.toNat / 2 % 2 = 1) := by
  rw [BitVec.getLsbD, Nat.testBit_eq_decide_div_mod_eq, Nat.pow_one]

theorem decodeEvent_of_kind_zero {w : EvWord} (h : w.toNat / 256 = 0) : decodeEvent w = .error .noEvent := by
  simp only [decodeEvent, evKind_eq (k := 0#2) h]

/-- A word of kind 0, delivered all the same, has no effect but on the last output (log 11). -/
theorem deliver_of_not_event {w : EvWord} {s : State} {d : DecodeError} (h : decodeEvent w = .error d) :
    deliver (.ev w) s = .next { s with out := .none } := by
  have hdec : decode (Context.of s.block (.ev w)) (.ev w) = .error d := by simp [decode, h]
  rw [deliver_of_decode_error hdec, State.undecoded, State.idle_eq]

/-- Settles O1: the kind and the data are the word's two digits in base 256, and the words of a cycle are the
encoder's. -/
theorem eventWordFormat : Obligations.EventWordFormat := by
  refine ⟨fun w => ⟨decodeEvent_of_kind_zero, fun h => ?_, fun h => ?_, fun h => ?_⟩, fun w s h => ?_,
    fun p r => ⟨fun hrst => ?_, fun hrst => ?_⟩⟩
  · simp only [decodeEvent, evKind_eq (k := 1#2) h, evData_eq_ofNat]
  · simp only [decodeEvent, evKind_eq (k := 2#2) h]
  · simp only [decodeEvent, evKind_eq (k := 3#2) h, getLsbD_zero_eq_decide, getLsbD_one_eq_decide]
    rfl
  · exact ⟨_, deliver_of_not_event (decodeEvent_of_kind_zero h), rfl, rfl, rfl, rfl, rfl⟩
  · rw [InPorts.words, if_pos hrst]
    cases p.cfgAvgEn <;> cases p.cfgThMode <;> rfl
  · have hflush : encodeEvent .flush = 0x200#10 := by decide
    simp [InPorts.words, hrst, byteWord_eq, hflush, Block.inReady]

end Sys2Proof.Machine
end

section
/-! R8, R51 and R78: what a step takes off the queue, and the queue a `FRAME` leaves. -/

namespace Sys2Proof.Machine

open Claims

/-- Settles O5: each word is an event's word, for which the row of the condition is selected. -/
theorem writtenWordsDecode : Obligations.WrittenWordsDecode := by
  refine ⟨fun c => ?_, fun c hst => ?_, fun c hst => ?_, fun c hst hlast => ?_, fun c hst havg hzero => ?_⟩
  · exact decode_event c (.reset false true)
  · rw [← selectByte_seekFirst_hit hst]
    exact decode_event c (.byte 0x42#8)
  · have hne : (0x42#8 : Byte) ≠ Config.mark1 := by decide
    rw [← selectByte_seekSecond_miss hst hne]
    exact decode_event c (.byte 0x42#8)
  · rw [← selectByte_collect_not_last hst hlast]
    exact decode_event c (.byte 0x1C#8)
  · have hsel := (selectFlush_averaging (by simp [hst]) havg).trans (if_pos hzero)
    rw [← hsel]
    exact decode_event c .flush

/-- Settles O6: the conditions of R85 do not look at the queue. -/
theorem stepRunsDecodedInstruction : Obligations.StepRunsDecodedInstruction := by
  intro s x xs i hin hdec
  rw [step_cons hin]
  exact deliver_of_decode_ok (s := { s with inputs := xs }) hdec

/-- Settles O7, by what the head of the queue is: nothing, no event, or no valid frame. -/
theorem stepWithoutAnOperation : Obligations.StepWithoutAnOperation := by
  refine ⟨fun s hin => ?_, fun s w xs e hin hw => ?_, fun s w xs e hin hw => ?_⟩
  · rw [step_nil hin, s.idle_eq]
  · rw [step_cons hin, deliver_of_not_event hw]
  · rw [step_invalid_frame hin hw, byteWords_eq_byteInputs]
    rfl

/-- Settles O9: an event word is handled without touching the queue behind it. -/
theorem stepConsumesOneInput : Obligations.StepConsumesOneInput := by
  intro s t w xs hin h
  rw [step_cons hin] at h
  have hsame := (deliver_ev_withInputs h xs).symm.trans h
  exact (congrArg State.inputs (Host.Outcome.next.inj hsame)).symm

/-- Settles O37: the bytes that `FRAME` offers, written as R87 writes them. -/
theorem frameDeliversItsBytes : Obligations.FrameDeliversItsBytes := by
  intro s ch rsv csum
  rw [byteWords_eq_byteInputs, wireBytes_eq_frameBytes]
  exact ⟨_, rfl, rfl, rfl, rfl, List.append_nil s.outs, rfl⟩

end Sys2Proof.Machine
end

section
/-! R104: where the synchronizer matches in a stream of bytes. -/

namespace Sys2Proof.Machine

open Claims

/-- The scan's match is the marker at the end of what it has consumed (R104). -/
theorem take_scanLength_eq {bs pre : List Byte} {n : Nat} (h : bs = pre ++ Config.mark0 :: Config.mark1 :: bs.drop n) :
    bs.take n = pre ++ [Config.mark0, Config.mark1] := by
  refine List.append_cancel_right (bs := bs.drop n) ?_
  rw [List.take_append_drop, List.append_assoc]
  exact h

/-- The bytes up to and with the marker that the scan finds leave the block in `COLLECT` (R101 to R104). -/
theorem deliverAll_through_marker {bs : List Byte} {n : Nat} (h : scanLength bs = some n) {s : State}
    (hst : s.block.st = .seekFirst) : deliverAll (byteInputs (bs.take n)) s = .next (s.inFrame 0 s.block.buf) := by
  obtain ⟨pre, o, hbs, hpre⟩ := deliverAll_before_marker bs h s hst
  rw [take_scanLength_eq hbs, byteInputs_append, deliverAll_append_next _ _ hpre]
  exact deliverAll_marker (s := { s with out := o }) hst

/-- The block of `t` is the block `r`, seeking (R21). -/
def SeeksLike (r : Block) (t : State) : Prop := t.block = r ∨ t.block = { r with st := .seekSecond }

/-- No byte or one byte from `SEEK_FIRST` (R100, R101). -/
theorem deliverAll_at_most_one_byte {bs : List Byte} (hlen : bs.length ≤ 1) {s : State}
    (hst : s.block.st = .seekFirst) : ∃ t, deliverAll (byteInputs bs) s = .next t ∧ SeeksLike s.block t := by
  obtain rfl | ⟨a, rfl⟩ : bs = [] ∨ ∃ a, bs = [a] := by
    rwa [← List.length_eq_zero_iff, ← List.length_eq_one_iff, ← Nat.le_one_iff_eq_zero_or_eq_one]
  · exact ⟨s, rfl, .inl rfl⟩
  · by_cases ha : a = Config.mark0
    · exact ⟨_, ha ▸ deliverAll_cons_next [] (deliver_mark0 hst), .inr rfl⟩
    · exact ⟨_, deliverAll_cons_next [] (deliver_seek_first_miss hst ha), .inl rfl⟩

/-- As long as the scan has not matched, the block seeks (R100, R101, R103). -/
theorem deliverAll_before_match (bs : List Byte) (m : Nat) (hm : ∀ n, scanLength bs = some n → m < n) (s : State)
    (hst : s.block.st = .seekFirst) :
    ∃ t, deliverAll (byteInputs (bs.take m)) s = .next t ∧ SeeksLike s.block t := by
  induction bs using scanLength.induct generalizing m s with
  | case1 => exact deliverAll_at_most_one_byte (by simp) hst
  | case2 a => exact deliverAll_at_most_one_byte (by simp) hst
  | case3 rest =>
    have hone : m ≤ 1 := Nat.lt_succ_iff.1 (hm 2 rfl)
    exact deliverAll_at_most_one_byte ((List.length_take_le _ _).trans hone) hst
  | case4 b rest hb ih =>
    by_cases hone : m ≤ 1
    · exact deliverAll_at_most_one_byte ((List.length_take_le _ _).trans hone) hst
    · obtain ⟨k, rfl⟩ : ∃ k, m = k + 2 := ⟨m - 2, by omega⟩
      have hk : ∀ n, scanLength rest = some n → k < n := fun n hn =>
        Nat.lt_of_add_lt_add_right (hm (n + 2) ((scanLength_false_marker rest hb).trans (by rw [hn]; rfl)))
      obtain ⟨t, ht, hseeks⟩ := ih k hk { s with out := .none } hst
      exact ⟨t, (deliverAll_append_next _ (byteInputs (rest.take k)) (deliverAll_false_marker hst hb)).trans ht, hseeks⟩
  | case5 a b rest ha ih =>
    cases m with
    | zero => exact ⟨s, rfl, .inl rfl⟩
    | succ k =>
      have hk : ∀ n, scanLength (b :: rest) = some n → k < n := fun n hn =>
        Nat.lt_of_add_lt_add_right (hm (n + 1) ((scanLength_miss b rest ha).trans (by rw [hn]; rfl)))
      obtain ⟨t, ht, hseeks⟩ := ih k hk { s with out := .none } hst
      exact ⟨t, (deliverAll_cons_next _ (deliver_seek_first_miss hst ha)).trans ht, hseeks⟩

/-- Settles O16, by the scan's recursion: what it passes over leaves the block as it was. -/
theorem synchronizerIsTheScan : Obligations.SynchronizerIsTheScan := by
  intro bs s hst
  simp only [byteWords_eq_byteInputs]
  refine ⟨fun n hn => ⟨⟨_, deliverAll_through_marker hn hst, rfl, rfl⟩, fun m hm => ?_⟩, fun hnone m _ => ?_⟩
  · exact deliverAll_before_match bs m (fun k hk => Option.some.inj (hn.symm.trans hk) ▸ hm) s hst
  · exact deliverAll_before_match bs m (by simp [hnone]) s hst

end Sys2Proof.Machine
end

section
/-! R82, R138, R139 and R142: the value of an `Emit` as a mean. -/

namespace Sys2Proof.Machine

open Claims

/-- The scale as the statements write it (R82). -/
theorem scale_cast (th : Bool) (i : Fin 12) :
    (scale th i : Rat) = if th = true ∧ 10 ≤ i.val then 10 else 1 := by
  simp [scale, apply_ite Nat.cast]

theorem emitValue_eq_div (n : CntWord) (v : Vector SumWord 12) (th : Bool) (i : Fin 12) :
    emitValue n v th i = (v[i].toNat : Rat) / ((n.toNat : Rat) * if th = true ∧ 10 ≤ i.val then 10 else 1) := by
  rw [emitValue, Nat.cast_mul, scale_cast]

/-- Scaling each frame's channel before adding is scaling the total (R139). -/
theorem sum_channel_div (fs : List FrameFields) (i : Fin 12) (q : Rat) :
    (fs.map fun f => (f.1[i].toNat : Rat) / q).sum = (channelTotal fs i : Rat) / q := by
  have htotal : (channelTotal fs i : Rat) = (fs.map fun f => (f.1[i].toNat : Rat)).sum := by
    rw [channelTotal, Nat.cast_list_sum, List.map_map]
    rfl
  simp only [htotal, div_eq_mul_inv, List.sum_map_mul_right]

/-- Settles O33: division by the scale distributes over the sum and changes places with division by the count. -/
theorem emitValueIsMeanOfScaledChannels : Obligations.EmitValueIsMeanOfScaledChannels := by
  intro fs n v th i _ hn hv
  rw [emitValue_eq_div, hn, hv, sum_channel_div, div_div, mul_comm]

end Sys2Proof.Machine
end

section
/-! R76, R87 and R131: a valid 256-bit frame in pass-through mode. -/

namespace Sys2Proof.Machine

open Claims

/-- The step on a waiting `FRAME` puts its bytes on the stream (R87; log 9). -/
theorem step_valid_frame {s : State} {ch : Vector Word 12} {rsv csum : Word} {rest : List Input}
    (hwf : (Instr.frame ch rsv csum).wellFormed = true) (hin : s.inputs = encode (.frame ch rsv csum) :: rest) :
    step s = .next { s with inputs := byteInputs (frameBytes ch rsv csum) ++ rest, out := .none } := by
  have hdec := decodeOfEncode _ (Context.of s.block (encode (.frame ch rsv csum))) hwf rfl
  rw [step_cons hin, deliver_of_decode_ok (s := { s with inputs := rest }) hdec]
  simp [exec, execFrame, State.offer, State.commit]

/-- Settles O38: after the token's step the 32 bytes are the marker and an accepted payload, which is output. -/
theorem validFrameIsForwardedWhole : Obligations.ValidFrameIsForwardedWhole := by
  intro s ch rsv csum rest hwf hst havg hin
  let u : State := { s with inputs := rest, out := .none }
  let p := framePayload ch rsv csum
  have hrun : Sys2Proof.core.run 33 s =
      .next (u.commit (u.dropped p).block (.emit 1#32 (channelLanes p) s.block.thMode)) := by
    rw [run_succ_next 32 (step_valid_frame hwf hin)]
    refine (run_byteInputs (frameBytes ch rsv csum) rest { s with out := .none }).trans ?_
    exact deliverAll_forwarded_frame (s := u) (accepts_framePayload hwf) hst havg
  refine ⟨_, channelLanes p, hrun, fun i => ?_, rfl, rfl, rfl, rfl, rfl⟩
  rw [channelLanes_toNat, ← channel_toNat, channel_framePayload]

end Sys2Proof.Machine
end

section
/-! R132, R134, R138, R142 and R150: an averaging window of valid frames. -/

namespace Sys2Proof.Machine

open Claims

/-- Settles O41: the window starts from an aggregate of nothing, each frame is added exactly, and the deadline gives
out the totals with the number of frames. -/
theorem windowOutputsArithmeticMean : Obligations.WindowOutputsArithmeticMean := by
  intro fs s th hfs hne hlen
  obtain ⟨t, ht, hcnt, hsum, hblock, houts, -⟩ := deliverAll_valid_frames fs (s.windowStart th) hfs (by simp) rfl rfl
    (by simpa using hlen)
  rw [State.windowStart_cnt_toNat, Nat.zero_add] at hcnt
  have hpos : t.block.cnt.toNat ≠ 0 := by rwa [hcnt, ne_eq, List.length_eq_zero_iff]
  have hst : t.block.st = .seekFirst := by rw [hblock]; rfl
  have havg : t.block.avgEn = true := by rw [hblock]; rfl
  have hth : t.block.thMode = th := by rw [hblock]; rfl
  have hovf : t.block.ovf = false := by rw [hblock]; rfl
  have hbytes := (deliverAll_cons_next _ (deliver_reset_window s th)).trans ht
  rw [deliverAll_append_next _ _ hbytes, deliverAll_singleton]
  refine ⟨_, t.block.cnt, t.block.sum, deliver_flush_ok (by simp [hst]) havg hpos, ?_, hcnt, fun i => ?_, rfl, rfl,
    hovf⟩
  · simp [houts, hth]
  · rw [emitValue_eq_div, hcnt, hsum]
    simp

end Sys2Proof.Machine
end
